-- ==== Sys2Proof/Word.lean ====
section
/-! DEFINITION. The words of the ModRF codec core. Only what the spec treats as bits is a bit vector:
register contents, command words, sample words, bytes. Counts are Nat and levels compare as Int
(00_scope.md, section 5). -/

namespace Sys2Proof

/-- A 32-bit register, command or sample word (R10). -/
abbrev Word := BitVec 32

/-- One character or FIFO entry (R11, R36). -/
abbrev Byte := BitVec 8

/-- A 16-bit two's-complement amplitude level in code units (R10, R21). -/
abbrev Level := BitVec 16

/-- `u32(v)`: the low 32 bits of an integer, in two's complement (00_scope.md, section 5). -/
def u32 (v : Int) : Word := BitVec.ofInt 32 v

end Sys2Proof
end

