-- ==== Sys2Proof/Syntax.lean ====
section
/-! DEFINITION. The operations a command word can name: one constructor per row of
spec/opcode_table.json (R68). -/

namespace Sys2Proof

/-- A command of the core (R68). Only TX_SEND has an operand, an unsigned byte (R67). -/
inductive Instr where
  /-- NOP (R121). -/
  | nop
  /-- TX_SEND b: encode byte `b` into one frame and queue it (R88). -/
  | txSend (b : Byte)
  /-- TX_ABORT: drop the active and the pending frame (R92). -/
  | txAbort
  /-- RX_START: latch the RX parameters and arm the start wait (R97). -/
  | rxStart
  /-- RX_STOP: stop decoding (R98). -/
  | rxStop
  /-- RX_FIFO_CLEAR: empty the RX byte FIFO (R99). -/
  | rxFifoClear
  /-- SOFT_RESET: reset the engines, keep the configuration (R122). -/
  | softReset
deriving DecidableEq, Repr

end Sys2Proof
end

