-- ==== Sys2Proof/WellFormed.lean ====
section
/-! DEFINITION. When the fields of a command word are a command's (R65, R68, R70). An `Instr` needs no
check of its own: its one operand is a byte by type. The checks are on the fields a word is cut into. -/

namespace Sys2Proof

/-- Format C: the three fields of a command word (R65). -/
structure FormatC where
  /-- OP, bits 31:24. -/
  op : Byte
  /-- MBZ, bits 23:8. -/
  mbz : BitVec 16
  /-- ARG, bits 7:0. -/
  arg : Byte
deriving DecidableEq, Repr

/-- MBZ must be zero (R65). -/
def FormatC.mbzZero (f : FormatC) : Bool := f.mbz == 0

/-- ARG must be zero for every operation but TX_SEND (R65). -/
def FormatC.argAllowed (f : FormatC) : Bool := f.op == 1 || f.arg == 0

/-- OP 0x07 to 0xFF are reserved (R70, R71). -/
def FormatC.opDefined (f : FormatC) : Bool := decide (f.op.toNat ≤ 6)

/-- The fields are those of one of the seven commands (R68, R70). -/
def FormatC.wellFormed (f : FormatC) : Bool := f.mbzZero && f.argAllowed && f.opDefined

/-- The operand a command carries is one its encoding admits: 0 to 255 for TX_SEND (R67). True of
every `Instr`, since the operand's type is `Byte`. -/
def Instr.wellFormed : Instr → Bool
  | .nop => true
  | .txSend b => decide (b.toNat ≤ 255)
  | .txAbort => true
  | .rxStart => true
  | .rxStop => true
  | .rxFifoClear => true
  | .softReset => true

end Sys2Proof
end

