-- ==== Sys2Proof/Decode.lean ====
section
/-! DEFINITION. The command decoder (R69), total on every 32-bit word and rejecting by name, and the
encoder, both from the encoding tables of 30_encoding.md (R65, R68). -/

namespace Sys2Proof

/-- Why a command word is Invalid (R69, R70), in the order of the checks. -/
inductive Invalid where
  /-- A bit of MBZ is set. -/
  | mbzNonzero
  /-- ARG is nonzero and OP is not TX_SEND's. -/
  | argNonzero
  /-- OP is 0x07 to 0xFF. -/
  | reservedOp
deriving DecidableEq, Repr

/-- What a command word decodes to: `Command | Invalid` (R69). -/
inductive Decoded where
  /-- One of the seven commands. -/
  | command (i : Instr)
  /-- Not a valid command word. -/
  | invalid (why : Invalid)
deriving DecidableEq, Repr

/-- The three fields of a command word (R65). -/
def FormatC.ofWord (v : Word) : FormatC where
  op := v.extractLsb' 24 8
  mbz := v.extractLsb' 8 16
  arg := v.extractLsb' 0 8

/-- The command word with the given fields (R65). -/
def FormatC.toWord (f : FormatC) : Word := f.op ++ f.mbz ++ f.arg

/-- `decode` of R69, on the fields. -/
def FormatC.decode (f : FormatC) : Decoded :=
  if f.mbz ≠ 0 then .invalid .mbzNonzero
  else if f.op = 0x01 then .command (.txSend f.arg)
  else if f.arg ≠ 0 then .invalid .argNonzero
  else if f.op = 0x00 then .command .nop
  else if f.op = 0x02 then .command .txAbort
  else if f.op = 0x03 then .command .rxStart
  else if f.op = 0x04 then .command .rxStop
  else if f.op = 0x05 then .command .rxFifoClear
  else if f.op = 0x06 then .command .softReset
  else .invalid .reservedOp

/-- `decode` of R69: the whole word at once, no mode changes it (R64). -/
def decode (v : Word) : Decoded := (FormatC.ofWord v).decode

/-- The command a decoding gives, if it gives one. -/
def Decoded.instr? : Decoded → Option Instr
  | .command i => some i
  | .invalid _ => none

/-- The fields of a command (R65, R68). -/
def Instr.fields : Instr → FormatC
  | .nop => ⟨0x00, 0, 0⟩
  | .txSend b => ⟨0x01, 0, b⟩
  | .txAbort => ⟨0x02, 0, 0⟩
  | .rxStart => ⟨0x03, 0, 0⟩
  | .rxStop => ⟨0x04, 0, 0⟩
  | .rxFifoClear => ⟨0x05, 0, 0⟩
  | .softReset => ⟨0x06, 0, 0⟩

/-- The word that encodes a command (R68, R73). -/
def encode (i : Instr) : Word := i.fields.toWord

/-- The command word whose `nbits` bits are `w`, every bit above them zero: a command is one whole
32-bit word (R64), moved whole over the bus, so its byte order cannot be observed (R52). -/
def commandWord (nbits w : Nat) : Word := BitVec.ofNat 32 (w % 2 ^ nbits)

/-- The command the decoder reads from a table row's word. -/
def decodeTableWord (nbits w : Nat) : Option Instr := (decode (commandWord nbits w)).instr?

/-- Byte lane `j` of a word, little-endian: bits `[8j+7:8j]` (R52). No access observes it. -/
def byteLane (j : Nat) (w : Word) : Byte := w.extractLsb' (8 * j) 8

/-- The word whose byte lanes 0 to 3 are given (R52). -/
def ofByteLanes (b0 b1 b2 b3 : Byte) : Word := b3 ++ b2 ++ b1 ++ b0

end Sys2Proof
end

