-- ==== Sys2Proof/Config.lean ====
section
/-! DEFINITION. The parameters of the core that the spec fixes (R10, R11), and those it leaves open,
`BASE` (R56), `V_LSB` (R10) and the voltage of code 0 (N15), which are arguments where they are used. -/

namespace Sys2Proof.Config

/-- `RXQ_DEPTH`: bytes the RX FIFO holds (R10). -/
abbrev rxqDepth : Nat := 8

/-- Data slots of a frame (R11). -/
abbrev dataSlots : Nat := 8

/-- Idle slots of a frame (R11). -/
abbrev idleSlots : Nat := 1

/-- Bits at which the accumulator is flushed (R11, R115). -/
abbrev flushBits : Nat := 8

/-- The ID register's constant (R18). -/
abbrev idWord : Word := 0x4D524601#32

/-- Bytes of the register window (R56). -/
abbrev windowBytes : Nat := 128

/-- The meaning of a code value in volts, for a platform whose code unit is worth `vLsb` volts (R10) and
whose code 0 stands for `vZero` volts. `V_LSB` is OPEN, an argument; no rule of the machine reads it. Which
voltage code 0 stands for is not in the source and must not be assumed (91_not_in_source.md, N15): it is an
argument too. DESIGN CHOICE (notes/assumptions/5.md): that one offset, `vZero`, says it for every code. -/
def volts (vZero vLsb : Rat) (code : Int) : Rat := vZero + vLsb * code

end Sys2Proof.Config
end

