-- ==== Sys2Proof/Machine/State.lean ====
section
/-! DEFINITION. The state of one core instance (R12), with the record of what the agents around it do
and receive (`Env`, the model's own, notes/assumptions/1.md and 3.md), and the reset state (R43). -/

namespace Sys2Proof.Machine

/-- CTRL.DZ_MODE (R19). The reserved value 3 is never stored (R20), so it has no constructor. -/
inductive DzMode where
  /-- 0: no dead zone. -/
  | off
  /-- 1: drop. -/
  | drop
  /-- 2: hold (carry over). -/
  | hold
deriving DecidableEq, Repr

/-- The fields of CTRL (R19); all other bits are reserved, ignored on write and read as 0. -/
structure Ctrl where
  /-- Bit 0: bipolar carrier at zero crossings. -/
  cz : Bool
  /-- Bit 1: the threshold is the midpoint of the levels. -/
  thrAuto : Bool
  /-- Bits 3:2: dead-zone policy. -/
  dzMode : DzMode
  /-- Bit 4: the slicer's output is inverted. -/
  rxInv : Bool
deriving DecidableEq, Repr

/-- The stored RW registers (R12, R17), each with the bits it stores. -/
structure Regs where
  /-- CTRL, 0x04 (R19). -/
  ctrl : Ctrl
  /-- IRQ_EN, 0x14, bits 9:0 (R31). -/
  irqEn : BitVec 10
  /-- A_LOW, 0x20 (R21). -/
  aLow : Level
  /-- A_HIGH, 0x24 (R21). -/
  aHigh : Level
  /-- CAR_NUM, 0x28 (R22). -/
  carNum : Word
  /-- CAR_DEN, 0x2C (R22). -/
  carDen : Word
  /-- TX_LEN, 0x30 (R23). -/
  txLen : Word
  /-- SLOT_LEN, 0x34 (R23). -/
  slotLen : Word
  /-- PRE_LEN, 0x38, bits 7:0 (R23). -/
  preLen : Byte
  /-- RX_THRESH, 0x40 (R26). -/
  rxThresh : Word
  /-- DZ_LO, 0x44 (R26). -/
  dzLo : Word
  /-- DZ_HI, 0x48 (R26). -/
  dzHi : Word
  /-- RX_SLOT_LEN, 0x4C (R27). -/
  rxSlotLen : Word
  /-- RX_OFFSET, 0x50 (R27). -/
  rxOffset : Word
  /-- RX_SKIP, 0x54, bits 7:0 (R27). -/
  rxSkip : Byte
  /-- RX_FRAME_LEN, 0x58 (R27). -/
  rxFrameLen : Word
deriving DecidableEq, Repr

/-- The sticky bits of INT_STAT (R30): which of them are set. -/
structure Sticky where
  /-- Bit 0. -/
  txDone : Bool
  /-- Bit 3. -/
  rxStart : Bool
  /-- Bit 4. -/
  ambig : Bool
  /-- Bit 5. -/
  rxOvf : Bool
  /-- Bit 6. -/
  txOvf : Bool
  /-- Bit 7. -/
  trunc : Bool
  /-- Bit 8. -/
  cfgErr : Bool
  /-- Bit 9. -/
  badCmd : Bool
deriving DecidableEq, Repr

/-- TxParams: the modulator configuration latched by an accepted TX_SEND (R12, R85). -/
structure TxParams where
  cz : Bool
  aLow : Level
  aHigh : Level
  fc : Word
  fs : Word
  N : Word
  S : Word
  P : Byte
deriving DecidableEq, Repr

/-- A pending frame: its byte and its snapshot (R37). -/
structure PendingFrame where
  b : Byte
  p : TxParams
deriving DecidableEq, Repr

/-- The active frame, with the index of its next sample, an unbounded natural (R15, R37). -/
structure ActiveFrame where
  b : Byte
  p : TxParams
  n : Nat
deriving DecidableEq, Repr

/-- The TX frame slots (R37). -/
structure TxEngine where
  active : Option ActiveFrame
  pending : Option PendingFrame
deriving DecidableEq, Repr

/-- The receive states (R94). -/
inductive RxState where
  /-- Not decoding; input samples are discarded. -/
  | idle
  /-- Started, waiting for the first input sample. -/
  | armed
  /-- Decoding. -/
  | run
deriving DecidableEq, Repr

/-- RxParams: the receive configuration latched by an accepted RX_START (R12, R96). -/
structure RxParams where
  sl : Word
  off : Word
  skip : Byte
  fl : Word
  T : Word
  dzMode : DzMode
  dzLo : Word
  dzHi : Word
  inv : Bool
deriving DecidableEq, Repr

/-- The receive engine (R12). -/
structure RxEngine where
  /-- R94. -/
  state : RxState
  /-- Latched parameters (R38). -/
  p : RxParams
  /-- Input samples processed since the first one of the session, unbounded (R15). -/
  m : Nat
  /-- Index of the next decision point (R104). -/
  k : Nat
  /-- The bit accumulator, oldest first (R35). -/
  acc : List Bool
  /-- The most recently appended bit (R39). -/
  last : Option Bool
deriving DecidableEq, Repr

/-- A bus transaction (R44): `off` is a byte offset into the core's window, `size` is in bytes; only a
WRITE carries data. -/
inductive Transaction where
  | read (off size : Nat)
  | write (off size : Nat) (data : Word)
deriving DecidableEq, Repr

/-- The core's answer to a transaction (R44). -/
inductive Answer where
  /-- `OK(rdata)`; a WRITE's carries 0. -/
  | ok (rdata : Word)
  /-- `ERR`. -/
  | err
deriving DecidableEq, Repr

/-- One step of one agent (R55, R72). -/
inductive Event where
  /-- The host's transaction. -/
  | bus (t : Transaction)
  /-- The TX sink takes one sample. -/
  | pull
  /-- The RX source delivers one sample word. -/
  | push (w : Word)
  /-- The hardware reset input. -/
  | reset
deriving DecidableEq, Repr

/-- The agents around the core: the model's own record, no state of the spec's.
DESIGN CHOICE (notes/assumptions/1.md, 3.md). -/
structure Env where
  /-- The agents' coming steps in the one total order of R58. Any list is allowed: the interleaving is free. -/
  pending : List Event
  /-- The sample words handed to the TX sink, oldest first. -/
  emitted : List Word
  /-- The answers the bus gave, oldest first. -/
  answers : List Answer
deriving DecidableEq, Repr

/-- The state of one core instance (R12) and, in `env`, the agents around it. -/
structure State where
  /-- The stored configuration registers. -/
  regs : Regs
  /-- The sticky bits of INT_STAT (R30). -/
  sticky : Sticky
  /-- AMBIG_IDX (R32). -/
  ambigIdx : Word
  /-- The transmit engine. -/
  tx : TxEngine
  /-- The receive engine. -/
  rx : RxEngine
  /-- The RX byte FIFO, oldest first (R36). -/
  rxq : List Byte
  /-- The agents around the core: the model's own. -/
  env : Env
deriving DecidableEq, Repr

/-- The reasons for a fault: there are none. "The core never traps, halts, stalls or rolls back on an
error" (R125), and an access the core cannot serve is answered ERR and the run goes on (R45).
Safe: no step stops where the spec goes on (notes/assumptions/8.md). -/
inductive Fault
deriving DecidableEq, Repr

/-- The reasons for a refusal. -/
inductive Refusal where
  /-- Raised by `exec` for a command that has no meaning yet; none is left so. Safe: the run stops. -/
  | notModelled (mnemonic : String)
deriving DecidableEq, Repr

/-- Every RW register after a hardware reset: 0 (R17, R43). -/
def Regs.reset : Regs where
  ctrl := ⟨false, false, .off, false⟩
  irqEn := 0
  aLow := 0
  aHigh := 0
  carNum := 0
  carDen := 0
  txLen := 0
  slotLen := 0
  preLen := 0
  rxThresh := 0
  dzLo := 0
  dzHi := 0
  rxSlotLen := 0
  rxOffset := 0
  rxSkip := 0
  rxFrameLen := 0

/-- `sticky = {}` (R43). -/
def Sticky.empty : Sticky := ⟨false, false, false, false, false, false, false, false⟩

/-- No frame active or pending (R37). -/
def TxEngine.empty : TxEngine := ⟨none, none⟩

/-- All-zero RxParams (R38). -/
def RxParams.zero : RxParams := ⟨0, 0, 0, 0, 0, .off, 0, 0, false⟩

/-- The receive engine after reset and SOFT_RESET (R35, R38, R39, R43). -/
def RxEngine.reset : RxEngine := ⟨.idle, RxParams.zero, 0, 0, [], none⟩

/-- The machine right after a hardware reset (R43, R141), with no step of any agent placed yet. -/
def State.reset : State where
  regs := Regs.reset
  sticky := Sticky.empty
  ambigIdx := 0
  tx := TxEngine.empty
  rx := RxEngine.reset
  rxq := []
  env := ⟨[], [], []⟩

/-! The record updates that the meanings are written with. -/

def State.setRegs (s : State) (r : Regs) : State := { s with regs := r }
def State.setSticky (s : State) (f : Sticky) : State := { s with sticky := f }
def State.setAmbigIdx (s : State) (w : Word) : State := { s with ambigIdx := w }
def State.setTx (s : State) (t : TxEngine) : State := { s with tx := t }
def State.setRx (s : State) (r : RxEngine) : State := { s with rx := r }
def State.setRxq (s : State) (q : List Byte) : State := { s with rxq := q }
def State.setEnv (s : State) (e : Env) : State := { s with env := e }

/-- The agents' remaining steps. -/
def State.setPending (s : State) (es : List Event) : State := { s with env := { s.env with pending := es } }

/-- `Emit(w)`: hand one sample word to the TX sink (00_scope.md, section 5). -/
def State.emit (s : State) (w : Word) : State := { s with env := { s.env with emitted := s.env.emitted ++ [w] } }

/-- The bus gives the answer `a` (R44). -/
def State.answer (s : State) (a : Answer) : State := { s with env := { s.env with answers := s.env.answers ++ [a] } }

end Sys2Proof.Machine
end

