-- ==== Sys2Proof/Machine/Operands.lean ====
section
/-! DEFINITION. Operand assembly (R67): how register contents become the values an operation uses. The
two latches (R85, R96), the two configuration checks (R84, R95), and the value of a list of bits. -/

namespace Sys2Proof.Machine

/-- A 16-bit level as a register word: `sext_32` (R21). -/
def levelWord (l : Level) : Word := l.signExtend 32

/-- TX_SEND's snapshot of the modulator configuration (R85). -/
def latchTx (r : Regs) : TxParams where
  cz := r.ctrl.cz
  aLow := r.aLow
  aHigh := r.aHigh
  fc := r.carNum
  fs := r.carDen
  N := r.txLen
  S := r.slotLen
  P := r.preLen

/-- TX_SEND's configuration check passes (R84). -/
def txConfigOk (p : TxParams) : Bool :=
  p.S != 0 && p.fs != 0 && p.N != 0 && decide (p.aLow.toInt < p.aHigh.toInt)

/-- The frame is too short for preamble, data and idle slots, computed exactly (R87). -/
def tooShort (p : TxParams) : Bool :=
  decide (p.N.toNat < (p.P.toNat + Config.dataSlots + Config.idleSlots) * p.S.toNat)

/-- The effective threshold: the midpoint of the levels rounded toward minus infinity when THR_AUTO = 1,
RX_THRESH otherwise (R96). -/
def effectiveThreshold (r : Regs) : Word :=
  if r.ctrl.thrAuto then u32 (Int.fdiv (r.aLow.toInt + r.aHigh.toInt) 2) else r.rxThresh

/-- `latch_rx` (R96). -/
def latchRx (r : Regs) : RxParams where
  sl := r.rxSlotLen
  off := r.rxOffset
  skip := r.rxSkip
  fl := r.rxFrameLen
  T := effectiveThreshold r
  dzMode := r.ctrl.dzMode
  dzLo := r.dzLo
  dzHi := r.dzHi
  inv := r.ctrl.rxInv

/-- The schedule part of RX_START's check (R95): slots are not empty and, in framed mode, the last data
decision of a frame lies before the next frame. -/
def scheduleOk (p : RxParams) : Bool :=
  p.sl != 0 && (p.fl == 0 || decide (p.off.toNat + (p.skip.toNat + 7) * p.sl.toNat < p.fl.toNat))

/-- The threshold part of RX_START's check (R95): with THR_AUTO = 1 an integer lies strictly between the
levels. -/
def midpointOk (r : Regs) : Bool := !r.ctrl.thrAuto || decide (2 ≤ r.aHigh.toInt - r.aLow.toInt)

/-- RX_START's configuration check passes (R95). -/
def rxConfigOk (r : Regs) : Bool := scheduleOk (latchRx r) && midpointOk r

/-- The value of a list of bits, oldest bit most significant: `sum a_j * 2^(c-1-j)` (R29, R115). -/
def bitsValue (bits : List Bool) : Nat := bits.foldl (fun v x => 2 * v + x.toNat) 0

/-- The register word whose bit `i` is entry `i` of a list, every bit beyond the list 0. -/
def bitsWord (bits : List Bool) : Word := (BitVec.ofBoolListLE bits).setWidth 32

/-- The 2-bit code of DZ_MODE (R19). -/
def DzMode.code : DzMode → BitVec 2
  | .off => 0
  | .drop => 1
  | .hold => 2

/-- DZ_MODE after a CTRL write whose field is `f`: a write of 3 leaves it unchanged (R20). -/
def DzMode.write (f : BitVec 2) (old : DzMode) : DzMode :=
  if f = 0 then .off else if f = 1 then .drop else if f = 2 then .hold else old

/-- The 2-bit code of the receive state (R24). -/
def RxState.code : RxState → BitVec 2
  | .idle => 0
  | .armed => 1
  | .run => 2

/-- A CTRL write (R20). -/
def Ctrl.write (v : Word) (c : Ctrl) : Ctrl where
  cz := v.getLsbD 0
  thrAuto := v.getLsbD 1
  dzMode := DzMode.write (v.extractLsb' 2 2) c.dzMode
  rxInv := v.getLsbD 4

/-- What CTRL reads: reserved bits 0 (R19). -/
def Ctrl.word (c : Ctrl) : Word :=
  (BitVec.ofBool c.rxInv ++ c.dzMode.code ++ BitVec.ofBool c.thrAuto ++ BitVec.ofBool c.cz).setWidth 32

end Sys2Proof.Machine
end

