-- ==== Sys2Proof/Machine/Flags.lean ====
section
/-! DEFINITION. The core's flags (R16): the cause bits of INT_STAT (R30, R126), STATUS (R24), the
accumulator view RX_ACC (R29) and the IRQ output (R40, R130). -/

namespace Sys2Proof.Machine

/-- The causes that have a sticky bit (R30, R126). -/
inductive Cause where
  /-- The last sample of a frame was emitted. -/
  | txDone
  /-- First sample after RX_START. -/
  | rxStart
  /-- Decision sample in the dead zone. -/
  | ambig
  /-- A byte flushed into a full FIFO was lost. -/
  | rxOvf
  /-- TX_SEND with a frame pending. -/
  | txOvf
  /-- Accepted frame too short. -/
  | trunc
  /-- Configuration check failed. -/
  | cfgErr
  /-- Not a valid command word. -/
  | badCmd
deriving DecidableEq, Repr

/-- A cause's code: its INT_STAT bit number (R126). -/
def Cause.code : Cause → Nat
  | .txDone => 0
  | .rxStart => 3
  | .ambig => 4
  | .rxOvf => 5
  | .txOvf => 6
  | .trunc => 7
  | .cfgErr => 8
  | .badCmd => 9

/-- The bit of a cause. -/
def Sticky.has (f : Sticky) : Cause → Bool
  | .txDone => f.txDone
  | .rxStart => f.rxStart
  | .ambig => f.ambig
  | .rxOvf => f.rxOvf
  | .txOvf => f.txOvf
  | .trunc => f.trunc
  | .cfgErr => f.cfgErr
  | .badCmd => f.badCmd

/-- Set the bit of a cause. One already set stays set and is not counted (R129). -/
def Sticky.set (f : Sticky) : Cause → Sticky
  | .txDone => { f with txDone := true }
  | .rxStart => { f with rxStart := true }
  | .ambig => { f with ambig := true }
  | .rxOvf => { f with rxOvf := true }
  | .txOvf => { f with txOvf := true }
  | .trunc => { f with trunc := true }
  | .cfgErr => { f with cfgErr := true }
  | .badCmd => { f with badCmd := true }

/-- Write-one-to-clear: `sticky <- { i in sticky | v[i] = 0 }` (R49). -/
def Sticky.clear (f : Sticky) (v : Word) : Sticky where
  txDone := f.txDone && !v.getLsbD Cause.txDone.code
  rxStart := f.rxStart && !v.getLsbD Cause.rxStart.code
  ambig := f.ambig && !v.getLsbD Cause.ambig.code
  rxOvf := f.rxOvf && !v.getLsbD Cause.rxOvf.code
  txOvf := f.txOvf && !v.getLsbD Cause.txOvf.code
  trunc := f.trunc && !v.getLsbD Cause.trunc.code
  cfgErr := f.cfgErr && !v.getLsbD Cause.cfgErr.code
  badCmd := f.badCmd && !v.getLsbD Cause.badCmd.code

/-- TXRDY, a level: no frame is pending (R30). -/
def txRdy (s : State) : Bool := s.tx.pending.isNone

/-- RXAVL, a level: the FIFO is not empty (R30). -/
def rxAvl (s : State) : Bool := !s.rxq.isEmpty

/-- What INT_STAT reads (R30): bits 0 to 9, the rest 0. -/
def intStat (s : State) : Word :=
  bitsWord [s.sticky.txDone, txRdy s, rxAvl s, s.sticky.rxStart, s.sticky.ambig, s.sticky.rxOvf,
    s.sticky.txOvf, s.sticky.trunc, s.sticky.cfgErr, s.sticky.badCmd]

/-- The IRQ output: the OR over i in 0..9 of `INT_STAT[i] AND IRQ_EN[i]` (R40, R130). -/
def irq (s : State) : Bool :=
  (List.range 10).any fun i => (intStat s).getLsbD i && s.regs.irqEn.getLsbD i

/-- What STATUS reads (R24): TX_ACTIVE, TX_PEND, RX_STATE, RXQ_COUNT. -/
def status (s : State) : Word :=
  (BitVec.ofNat 4 s.rxq.length ++ s.rx.state.code ++ BitVec.ofBool s.tx.pending.isSome ++
    BitVec.ofBool s.tx.active.isSome).setWidth 32

/-- What RX_ACC reads (R29): ACC_BITS, ACC_COUNT, LAST_VALID, LAST_BIT. -/
def rxAcc (r : RxEngine) : Word :=
  (BitVec.ofBool (r.last.getD false) ++ BitVec.ofBool r.last.isSome ++ BitVec.ofNat 4 r.acc.length ++
    BitVec.ofNat 8 (bitsValue r.acc)).setWidth 32

end Sys2Proof.Machine
end

