-- ==== Sys2Proof/Machine/Ops.lean ====
section
/-! DEFINITION. The shared operations. Raising a cause is all that stands for taking an exception on this
hardware: "The core saves no state, changes no mode and transfers no control when a cause is raised"
(R132). There is no return; a host acknowledges a cause by clearing its bit (R133, R49). -/

namespace Sys2Proof.Machine

/-- `raise E`: set the sticky bit of the cause and change nothing else (R125, R132). -/
def raise (c : Cause) (s : State) : State := s.setSticky (s.sticky.set c)

/-- The host's acknowledgement, a write of `v` to INT_STAT (R49, R133). -/
def acknowledge (v : Word) (s : State) : State := s.setSticky (s.sticky.clear v)

/-- `fifo_push` (R116). -/
def fifoPush (byte : Byte) (s : State) : State :=
  if s.rxq.length < Config.rxqDepth then s.setRxq (s.rxq ++ [byte]) else raise .rxOvf s

/-- `flush` (R115): the accumulator's value goes to the FIFO, and the accumulator is emptied. -/
def flush (s : State) : State :=
  fifoPush (BitVec.ofNat 8 (bitsValue s.rx.acc)) (s.setRx { s.rx with acc := [] })

/-- `append` (R114). -/
def appendBit (x : Bool) (s : State) : State :=
  let s' := s.setRx { s.rx with acc := s.rx.acc ++ [x], last := some x }
  if s'.rx.acc.length = Config.flushBits then flush s' else s'

/-- The head byte leaves the FIFO, if there is one (R28, R51). -/
def popFifo (s : State) : State := s.setRxq s.rxq.tail

/-- The state an outcome carries is changed by `f`; a stop stays as it is. -/
def andThen (o : Host.Outcome State Fault Refusal) (f : State → State) : Host.Outcome State Fault Refusal :=
  match o with
  | .next s => .next (f s)
  | .fault r => .fault r
  | .refused r => .refused r

end Sys2Proof.Machine
end

