-- ==== Sys2Proof/Machine/Control.lean ====
section
/-! DEFINITION. The control commands (42_control.md) and the hardware reset (R141). -/

namespace Sys2Proof.Machine

/-- NOP (R121): "NOP does nothing". -/
def execNop (s : State) : Host.Outcome State Fault Refusal := .next s

/-- SOFT_RESET (R122): both engines return to their reset state, every sticky bit is cleared, and the
configuration registers stay. -/
def execSoftReset (s : State) : Host.Outcome State Fault Refusal :=
  .next { s with
    tx := TxEngine.empty
    rx := RxEngine.reset
    rxq := []
    sticky := Sticky.empty
    ambigIdx := 0 }

/-- The hardware reset step (R141): every element of the state takes its reset value. The agents are
outside the core, so what they will do and have received stays (notes/assumptions/9.md). -/
def hardwareReset (s : State) : State := State.reset.setEnv s.env

end Sys2Proof.Machine
end

