-- ==== Sys2Proof/Machine/Demodulator.lean ====
section
/-! DEFINITION. The demodulator (41_demodulator.md): RX_START, RX_STOP, RX_FIFO_CLEAR, the decision
schedule, the bit slicer with its dead zone, and the RX source's step. -/

namespace Sys2Proof.Machine

/-- RX_START (R97): the check (R95), the latch (R96), a fresh session. -/
def execRxStart (s : State) : Host.Outcome State Fault Refusal :=
  if !rxConfigOk s.regs then .next (raise .cfgErr s)
  else .next (s.setRx ⟨.armed, latchRx s.regs, 0, 0, [], none⟩)

/-- RX_STOP (R98): the accumulator, the last bit and the counters keep their values. -/
def execRxStop (s : State) : Host.Outcome State Fault Refusal :=
  .next (s.setRx { s.rx with state := .idle })

/-- RX_FIFO_CLEAR (R99). -/
def execRxFifoClear (s : State) : Host.Outcome State Fault Refusal := .next (s.setRxq [])

/-- `sched(k)` (R104): the input index of decision `k`, framed or unframed. -/
def sched (p : RxParams) (k : Nat) : Nat :=
  if p.fl = 0 then p.off.toNat + (p.skip.toNat + k) * p.sl.toNat
  else (k / 8) * p.fl.toNat + p.off.toNat + (p.skip.toNat + k % 8) * p.sl.toNat

/-- `slice(v)` (R109): 1 if `v >= T`, inverted when `inv = 1`. -/
def slice (p : RxParams) (v : Int) : Bool := decide (p.T.toInt ≤ v) != p.inv

/-- `v` is in the dead zone: strictly inside the bounds, with a policy selected (R110). -/
def inDeadZone (p : RxParams) (v : Int) : Bool :=
  decide (p.dzMode ≠ .off) && decide (p.dzLo.toInt < v) && decide (v < p.dzHi.toInt)

/-- AMBIG is raised; AMBIG_IDX takes the index only if AMBIG was clear (R111). -/
def raiseAmbig (m : Nat) (s : State) : State :=
  raise .ambig (if s.sticky.ambig then s else s.setAmbigIdx (BitVec.ofNat 32 m))

/-- `dead_zone(m)` (R111): drop appends nothing (R112); hold appends the last bit again, or nothing if
there is none (R113). -/
def deadZone (m : Nat) (s : State) : State :=
  let s' := raiseAmbig m s
  match s'.rx.p.dzMode, s'.rx.last with
  | .hold, some x => appendBit x s'
  | .hold, none => s'
  | .drop, _ => s'
  | .off, _ => s'

/-- `decide(v, m)` (R108): one slot decision. -/
def decideSlot (v : Int) (m : Nat) (s : State) : State :=
  if inDeadZone s.rx.p v then deadZone m s else appendBit (slice s.rx.p v) s

/-- One input sample in RUN (R100): a decision if it is a decision point, and the next index. -/
def runSample (v : Int) (s : State) : State :=
  let s' :=
    if s.rx.m = sched s.rx.p s.rx.k then
      let d := decideSlot v s.rx.m s
      d.setRx { d.rx with k := d.rx.k + 1 }
    else s
  s'.setRx { s'.rx with m := s'.rx.m + 1 }

/-- The start detector (R102): the first sample after RX_START moves ARMED to RUN and raises RXSTART,
whatever its value. -/
def leaveArmed (s : State) : State := raise .rxStart (s.setRx { s.rx with state := .run })

/-- PUSH w (R100): always enabled. In IDLE the sample is discarded (R101). -/
def push (w : Word) (s : State) : State :=
  match s.rx.state with
  | .idle => s
  | .armed => runSample w.toInt (leaveArmed s)
  | .run => runSample w.toInt s

end Sys2Proof.Machine
end

