-- ==== Sys2Proof/Machine/Waveform.lean ====
section
/-! DEFINITION. The frame waveform (40_modulator.md, section 1): a pure function of the byte, the snapshot
and the sample index (R74), with no hidden state. Every quantity is an exact integer. -/

namespace Sys2Proof.Machine

/-- The carrier's phase at sample `n`: `(fc * n) mod fs`, exact (R75). -/
def phase (p : TxParams) (n : Nat) : Nat := (p.fc.toNat * n) % p.fs.toNat

/-- The carrier generator (R75): -1, 0 or +1; at a zero crossing CZ decides. The phase restarts with
every frame (R76). Used with `p.fs > 0` only (R84; notes/assumptions/6.md). -/
def car (p : TxParams) (n : Nat) : Int :=
  let r := phase p n
  if r = 0 then (if p.cz then 1 else 0)
  else if 2 * r = p.fs.toNat then (if p.cz then -1 else 0)
  else if 2 * r < p.fs.toNat then 1
  else -1

/-- The phase accumulator an implementation may use (R77). -/
def phaseAccumulator (p : TxParams) : Nat → Nat
  | 0 => 0
  | n + 1 => (phaseAccumulator p n + p.fc.toNat % p.fs.toNat) % p.fs.toNat

/-- The slot of sample `n` (R78). Used with `p.S > 0` only (R84; notes/assumptions/6.md). -/
def slotOf (p : TxParams) (n : Nat) : Nat := n / p.S.toNat

/-- The level of preamble slot `k`: low when even, high when odd (R79). -/
def preambleLevel (p : TxParams) (k : Nat) : Int := if k % 2 = 0 then p.aLow.toInt else p.aHigh.toInt

/-- The level that sends a bit: low for 1, high for 0; no mode bit changes this (R80). -/
def bitLevel (p : TxParams) (x : Bool) : Int := if x then p.aLow.toInt else p.aHigh.toInt

/-- `ENC(b, p, n)` (R82): preamble, data and idle slots (R79, R80, R81). -/
def enc (b : Byte) (p : TxParams) (n : Nat) : Int :=
  let k := slotOf p n
  if k < p.P.toNat then car p n * preambleLevel p k
  else if k < p.P.toNat + Config.dataSlots then car p n * bitLevel p (b.getLsbD (7 - (k - p.P.toNat)))
  else p.aLow.toInt

/-- `word(b, p, n)`: the output sample word (R82). -/
def sampleWord (b : Byte) (p : TxParams) (n : Nat) : Word := u32 (enc b p n)

end Sys2Proof.Machine
end

