-- ==== Sys2Proof/Machine/Modulator.lean ====
section
/-! DEFINITION. The modulator's operations (40_modulator.md, section 2): TX_SEND, TX_ABORT and the TX
sink's step. -/

namespace Sys2Proof.Machine

/-- An accepted frame starts at once when none is active, and is pending otherwise (R86). -/
def queueFrame (b : Byte) (p : TxParams) (t : TxEngine) : TxEngine :=
  match t.active with
  | none => { t with active := some ⟨b, p, 0⟩ }
  | some _ => { t with pending := some ⟨b, p⟩ }

/-- TX_SEND b (R88). CFGERR is checked before TXOVF, and TRUNC is raised only on acceptance (R128). -/
def execTxSend (b : Byte) (s : State) : Host.Outcome State Fault Refusal :=
  let p := latchTx s.regs
  if !txConfigOk p then .next (raise .cfgErr s)
  else if s.tx.pending.isSome then .next (raise .txOvf s)
  else
    let s' := if tooShort p then raise .trunc s else s
    .next (s'.setTx (queueFrame b p s'.tx))

/-- TX_ABORT (R92): no TXDONE for the frames dropped. -/
def execTxAbort (s : State) : Host.Outcome State Fault Refusal := .next (s.setTx TxEngine.empty)

/-- `frame_end` (R90): the pending frame, if any, becomes active at its sample 0 with no gap. -/
def frameEnd (s : State) : State :=
  let s' := raise .txDone s
  match s'.tx.pending with
  | none => s'.setTx { s'.tx with active := none }
  | some f => s'.setTx ⟨some ⟨f.b, f.p, 0⟩, none⟩

/-- PULL (R89). The step is enabled only while a frame is active; a sink that asks when none is gets
nothing and nothing changes (R91). DESIGN CHOICE, safe (notes/assumptions/2.md). -/
def pull (s : State) : State :=
  match s.tx.active with
  | none => s
  | some f =>
    let s' := s.emit (sampleWord f.b f.p f.n)
    if f.n + 1 = f.p.N.toNat then frameEnd s'
    else s'.setTx { s'.tx with active := some { f with n := f.n + 1 } }

end Sys2Proof.Machine
end

