-- ==== Sys2Proof/Machine/Registers.lean ====
section
/-! DEFINITION. The register map (R17): offsets, access kinds, what a read returns and what a write does
(20_memory.md, R46 to R51). A write to CMD performs the command it encodes (R50). -/

namespace Sys2Proof.Machine

/-- The 26 registers (R17). -/
inductive Reg where
  | id | ctrl | status | cmd | intStat | irqEn
  | aLow | aHigh | carNum | carDen | txLen | slotLen | preLen | txPos
  | rxThresh | dzLo | dzHi | rxSlotLen | rxOffset | rxSkip | rxFrameLen
  | rxPos | rxData | rxAcc | ambigIdx | rxThrEff
deriving DecidableEq, Repr

/-- A register's byte offset in the window (R17). -/
def Reg.offset : Reg → Nat
  | .id => 0x00 | .ctrl => 0x04 | .status => 0x08 | .cmd => 0x0C | .intStat => 0x10 | .irqEn => 0x14
  | .aLow => 0x20 | .aHigh => 0x24 | .carNum => 0x28 | .carDen => 0x2C
  | .txLen => 0x30 | .slotLen => 0x34 | .preLen => 0x38 | .txPos => 0x3C
  | .rxThresh => 0x40 | .dzLo => 0x44 | .dzHi => 0x48
  | .rxSlotLen => 0x4C | .rxOffset => 0x50 | .rxSkip => 0x54 | .rxFrameLen => 0x58
  | .rxPos => 0x5C | .rxData => 0x60 | .rxAcc => 0x64 | .ambigIdx => 0x68 | .rxThrEff => 0x6C

/-- `MAP`: the registers in the order of their offsets (R17). -/
def Reg.all : List Reg :=
  [.id, .ctrl, .status, .cmd, .intStat, .irqEn, .aLow, .aHigh, .carNum, .carDen, .txLen, .slotLen, .preLen,
   .txPos, .rxThresh, .dzLo, .dzHi, .rxSlotLen, .rxOffset, .rxSkip, .rxFrameLen, .rxPos, .rxData, .rxAcc,
   .ambigIdx, .rxThrEff]

/-- The register at a byte offset, if one is mapped there (R17, R45). -/
def Reg.atOffset (off : Nat) : Option Reg := Reg.all.find? fun r => r.offset == off

/-- The register a transaction reaches: a whole aligned word at a mapped offset, or none (R45, R54). -/
def target (off size : Nat) : Option Reg := if size = 4 ∧ off % 4 = 0 then Reg.atOffset off else none

/-- The kinds of access (R17). -/
inductive Access where
  /-- Read and write. -/
  | rw
  /-- Read only: a write is answered OK and changes nothing (R48). -/
  | ro
  /-- Write only. -/
  | wo
  /-- Read, write one to clear. -/
  | w1c
deriving DecidableEq, Repr

/-- A register's access kind (R17, R47, R48). -/
def Reg.access : Reg → Access
  | .id | .status | .txPos | .rxPos | .rxData | .rxAcc | .ambigIdx | .rxThrEff => .ro
  | .cmd => .wo
  | .intStat => .w1c
  | .ctrl | .irqEn | .aLow | .aHigh | .carNum | .carDen | .txLen | .slotLen | .preLen | .rxThresh | .dzLo
  | .dzHi | .rxSlotLen | .rxOffset | .rxSkip | .rxFrameLen => .rw

/-- TX_POS: the low 32 bits of the active frame's index, 0 when none is active (R25, R136). -/
def txPos (t : TxEngine) : Word :=
  match t.active with
  | some f => BitVec.ofNat 32 f.n
  | none => 0

/-- RX_DATA: VALID and the head byte, or 0 (R28). -/
def rxData (q : List Byte) : Word :=
  match q with
  | [] => 0
  | b :: _ => 0x80000000#32 ||| b.setWidth 32

/-- A register's view: what a READ returns (R46, and the register's rule of 10_state.md). -/
def readView (r : Reg) (s : State) : Word :=
  match r with
  | .id => Config.idWord
  | .ctrl => s.regs.ctrl.word
  | .status => status s
  | .cmd => 0
  | .intStat => intStat s
  | .irqEn => s.regs.irqEn.setWidth 32
  | .aLow => levelWord s.regs.aLow
  | .aHigh => levelWord s.regs.aHigh
  | .carNum => s.regs.carNum
  | .carDen => s.regs.carDen
  | .txLen => s.regs.txLen
  | .slotLen => s.regs.slotLen
  | .preLen => s.regs.preLen.setWidth 32
  | .txPos => txPos s.tx
  | .rxThresh => s.regs.rxThresh
  | .dzLo => s.regs.dzLo
  | .dzHi => s.regs.dzHi
  | .rxSlotLen => s.regs.rxSlotLen
  | .rxOffset => s.regs.rxOffset
  | .rxSkip => s.regs.rxSkip.setWidth 32
  | .rxFrameLen => s.regs.rxFrameLen
  | .rxPos => BitVec.ofNat 32 s.rx.m
  | .rxData => rxData s.rxq
  | .rxAcc => rxAcc s.rx
  | .ambigIdx => s.ambigIdx
  | .rxThrEff => s.rx.p.T

/-- The side effect of a READ: only RX_DATA has one, the pop (R46, R51). -/
def readEffect (r : Reg) (s : State) : State := if r = .rxData then popFifo s else s

/-- A write to CMD (R50, R70): the command, or BADCMD and nothing else. -/
def command (v : Word) (s : State) : Host.Outcome State Fault Refusal :=
  match decode v with
  | .command i => exec i s
  | .invalid _ => .next (raise .badCmd s)

/-- The RW registers after a write of `v` to one of them: the fields its rule names, reserved bits
ignored (R20, R21, R22, R23, R26, R27, R31, R47). A write to another register leaves them. -/
def writeRegs (r : Reg) (v : Word) (c : Regs) : Regs :=
  match r with
  | .ctrl => { c with ctrl := c.ctrl.write v }
  | .irqEn => { c with irqEn := v.setWidth 10 }
  | .aLow => { c with aLow := v.setWidth 16 }
  | .aHigh => { c with aHigh := v.setWidth 16 }
  | .carNum => { c with carNum := v }
  | .carDen => { c with carDen := v }
  | .txLen => { c with txLen := v }
  | .slotLen => { c with slotLen := v }
  | .preLen => { c with preLen := v.setWidth 8 }
  | .rxThresh => { c with rxThresh := v }
  | .dzLo => { c with dzLo := v }
  | .dzHi => { c with dzHi := v }
  | .rxSlotLen => { c with rxSlotLen := v }
  | .rxOffset => { c with rxOffset := v }
  | .rxSkip => { c with rxSkip := v.setWidth 8 }
  | .rxFrameLen => { c with rxFrameLen := v }
  | .id | .status | .cmd | .intStat | .txPos | .rxPos | .rxData | .rxAcc | .ambigIdx | .rxThrEff => c

/-- `write_effect` (R45, R47 to R50). -/
def writeEffect (r : Reg) (v : Word) (s : State) : Host.Outcome State Fault Refusal :=
  match r.access with
  | .rw => .next (s.setRegs (writeRegs r v s.regs))
  | .ro => .next s
  | .wo => command v s
  | .w1c => .next (acknowledge v s)

end Sys2Proof.Machine
end

