-- ==== Sys2Proof/Machine/Agents.lean ====
section
/-! DEFINITION. The indivisible steps of the agents (R55): a bus transaction, a PULL, a PUSH, a hardware
reset. -/

namespace Sys2Proof.Machine

/-- The read data an answer carries; an ERR's is 0 (R45). -/
def Answer.rdata : Answer → Word
  | .ok v => v
  | .err => 0

/-- A bus transaction with its answer (R44, R45). -/
def bus (t : Transaction) (s : State) : Host.Outcome State Fault Refusal :=
  match t with
  | .read off size =>
    match target off size with
    | none => .next (s.answer .err)
    | some r => .next ((readEffect r s).answer (.ok (readView r s)))
  | .write off size v =>
    match target off size with
    | none => .next (s.answer .err)
    | some r => andThen (writeEffect r v s) fun s' => s'.answer (.ok 0)

/-- One step of one agent (R55). -/
def perform (e : Event) (s : State) : Host.Outcome State Fault Refusal :=
  match e with
  | .bus t => bus t s
  | .pull => .next (pull s)
  | .push w => .next (push w s)
  | .reset => .next (hardwareReset s)

/-- The next step in the one total order of the agents' steps (R58). With none, the core does nothing:
"Between steps it does nothing" (R140; notes/assumptions/4.md). -/
def performNext (s : State) : Host.Outcome State Fault Refusal :=
  match s.env.pending with
  | [] => .next s
  | e :: es => perform e (s.setPending es)

/-- The host's WRITE of a command word to CMD (R50). -/
def commandWrite (v : Word) : Event := .bus (.write Reg.cmd.offset 4 v)

/-- The window offset of a host address, for a window at `base` (R56): `BASE` is OPEN, an argument. An
address below the window is not the core's (notes/assumptions/5.md). -/
def windowOffset (base addr : Nat) : Option Nat := if base ≤ addr then some (addr - base) else none

/-- The transaction that a host READ at an absolute address is (R44, R56). -/
def hostRead (base addr size : Nat) : Option Transaction :=
  (windowOffset base addr).map fun off => .read off size

/-- The transaction that a host WRITE at an absolute address is (R44, R56). -/
def hostWrite (base addr size : Nat) (v : Word) : Option Transaction :=
  (windowOffset base addr).map fun off => .write off size v

end Sys2Proof.Machine
end

