-- ==== Sys2Proof/Machine/Step.lean ====
section
/-! DEFINITION. One step of the machine, and where the host places a command word for the next step. -/

namespace Sys2Proof.Machine

/-- One step: the next step of the agents in their total order (R55, R58). -/
def step (s : State) : Host.Outcome State Fault Refusal := performNext s

/-- The state whose very next step is the host's write of the command word to CMD (R50): a command is not
fetched, it is written (notes/assumptions/4.md). -/
def State.withFetchWord (s : State) (nbits w : Nat) : State :=
  s.setPending (commandWrite (commandWord nbits w) :: s.env.pending)

end Sys2Proof.Machine
end

