-- ==== Sys2Proof/Safety.lean ====
section
/-! DEFINITION. What a good state is (R13, R37, R105, and what the latches guarantee), what it means for
the machine to reach a state, and the runs of sink and source steps that claims speak of. -/

namespace Sys2Proof.Machine

/-- A frame whose snapshot passed TX_SEND's check, with a sample left to emit (R15, R37, R84, R90). -/
def ActiveFrame.good (f : ActiveFrame) : Prop := txConfigOk f.p = true ∧ f.n < f.p.N.toNat

/-- The TX engine's invariant: no pending frame without an active one (R13), and both snapshots passed
the check (R84, R88). -/
structure TxEngine.Inv (t : TxEngine) : Prop where
  pending_needs_active : t.pending.isSome = true → t.active.isSome = true
  active_good : ∀ f, t.active = some f → f.good
  pending_checked : ∀ f, t.pending = some f → txConfigOk f.p = true

/-- Exactly the decision points before the next input index `m` are passed, and `k` is their number
(R105). -/
def RxEngine.atDecision (r : RxEngine) : Prop := (∀ j, j < r.k → sched r.p j < r.m) ∧ r.m ≤ sched r.p r.k

/-- The RX engine's invariant: a bounded accumulator (R13), a checked schedule while started (R95), the
decision index (R105), the last bit (R39), and a fresh session while ARMED (R97). -/
structure RxEngine.Inv (r : RxEngine) : Prop where
  acc_bounded : r.acc.length ≤ 7
  schedule_checked : r.state ≠ .idle → scheduleOk r.p = true
  decision_index : r.atDecision
  last_is_newest : r.acc ≠ [] → r.last = r.acc.getLast?
  armed_is_fresh : r.state = .armed → r.m = 0 ∧ r.k = 0 ∧ r.acc = [] ∧ r.last = none

/-- The state invariant of the core (R13, with the facts above). -/
structure State.Inv (s : State) : Prop where
  tx : s.tx.Inv
  rx : s.rx.Inv
  fifo_bounded : s.rxq.length ≤ Config.rxqDepth

/-- `t` is reached from `s` by steps that all answer a next state. -/
inductive Reaches : State → State → Prop where
  | refl (s : State) : Reaches s s
  | tail {s t u : State} : Reaches s t → step t = .next u → Reaches s u

/-- `k` consecutive PULLs (R72). -/
def pulls (k : Nat) (s : State) : State := Nat.iterate pull k s

/-- PUSH every word of a list, in order (R72, PUSHSTREAM). -/
def pushAll (ws : List Word) (s : State) : State := ws.foldl (fun t w => push w t) s

/-- The sample words of one whole frame, in order (R63, R83). -/
def frameWords (b : Byte) (p : TxParams) : List Word :=
  (List.range p.N.toNat).map fun n => sampleWord b p n

end Sys2Proof.Machine
end

