-- ==== Sys2Proof/Certificates/Slice0/Obligations.lean ====
section
/-! DEFINITION. The statements for the provers. Each docstring names the rules of spec/ it formalises. -/

open Sys2Proof Sys2Proof.Machine

/-! ## Encoding -/

/-- R64, R68, R69: decoding is the inverse of encoding, in both directions. Every command is read back from
its word, and no other word is read as a command. -/
def Obligations.DecodeInvertsEncode : Prop :=
  (∀ i : Instr, decode (encode i) = .command i) ∧ ∀ (v : Word) (i : Instr), decode v = .command i → encode i = v

/-- R68: "The valid command words are exactly these seven patterns", by match and mask. -/
def Obligations.ValidWordsAreTheSevenPatterns : Prop :=
  ∀ v : Word,
    (decode v = .command .nop ↔ v &&& 0xFFFFFFFF#32 = 0x00000000#32) ∧
    (∀ b : Byte, decode v = .command (.txSend b) ↔ v &&& 0xFFFFFF00#32 = 0x01000000#32 ∧ b = v.setWidth 8) ∧
    (decode v = .command .txAbort ↔ v &&& 0xFFFFFFFF#32 = 0x02000000#32) ∧
    (decode v = .command .rxStart ↔ v &&& 0xFFFFFFFF#32 = 0x03000000#32) ∧
    (decode v = .command .rxStop ↔ v &&& 0xFFFFFFFF#32 = 0x04000000#32) ∧
    (decode v = .command .rxFifoClear ↔ v &&& 0xFFFFFFFF#32 = 0x05000000#32) ∧
    (decode v = .command .softReset ↔ v &&& 0xFFFFFFFF#32 = 0x06000000#32)

/-- R70: which words are illegal, and that writing one to CMD raises BADCMD, is answered OK, and changes
nothing else. -/
def Obligations.IllegalCommandRaisesBadCmdOnly : Prop :=
  ∀ v : Word,
    ((∃ why, decode v = .invalid why) ↔
      0x07 ≤ (v.extractLsb' 24 8).toNat ∨ v.extractLsb' 8 16 ≠ 0 ∨
        (v.extractLsb' 0 8 ≠ 0 ∧ v.extractLsb' 24 8 ≠ 0x01)) ∧
    ∀ (s : State) (es : List Event) (why : Invalid),
      s.env.pending = .bus (.write 0x0C 4 v) :: es → decode v = .invalid why →
        step s = .next (({ s with sticky := s.sticky.set .badCmd }.setPending es).answer (.ok 0))

/-- Words written out from the spec's encodings (R68; 95_test_vectors.md, CMD-1 and P1) decode as the spec
says. -/
def Obligations.SpecWordsDecodeAsListed : Prop :=
  decode 0x00000000#32 = .command .nop ∧ decode 0x01000048#32 = .command (.txSend 0x48) ∧
  decode 0x010000FF#32 = .command (.txSend 0xFF) ∧ decode 0x02000000#32 = .command .txAbort ∧
  decode 0x03000000#32 = .command .rxStart ∧ decode 0x04000000#32 = .command .rxStop ∧
  decode 0x05000000#32 = .command .rxFifoClear ∧ decode 0x06000000#32 = .command .softReset ∧
  decode 0x00000001#32 = .invalid .argNonzero ∧ decode 0x00000100#32 = .invalid .mbzNonzero ∧
  decode 0x07000000#32 = .invalid .reservedOp ∧ decode 0xFF000000#32 = .invalid .reservedOp ∧
  decode 0x02000001#32 = .invalid .argNonzero ∧ decode 0x01FF0000#32 = .invalid .mbzNonzero

/-! ## A step runs the decoded command -/

/-- R50: when the next step is a host WRITE to CMD of a word that decodes to `i`, the step is `exec i` with
the write taken from the pending steps and the answer OK(0) given; and `withFetchWord` places such a write. -/
def Obligations.StepRunsTheWrittenCommand : Prop :=
  (∀ (s : State) (es : List Event) (v : Word) (i : Instr),
    s.env.pending = .bus (.write 0x0C 4 v) :: es → decode v = .command i →
      step s = andThen (exec i (s.setPending es)) fun t => t.answer (.ok 0)) ∧
  ∀ (s : State) (i : Instr),
    step (s.withFetchWord 32 (encode i).toNat) = andThen (exec i s) fun t => t.answer (.ok 0)

/-- R125, R132: the core never traps or halts: every step answers a next state. The step takes exactly the
first pending event, if one is pending, and no other. Three cases are the model's choice and no rule of the
spec: a step with no event pending, which takes none (notes/assumptions/4.md); a PULL with no active frame,
which is taken as an event although the sink then has no step (notes/assumptions/2.md); and a hardware reset,
which keeps the events still pending (notes/assumptions/9.md). -/
def Obligations.StepNeverStopsAndTakesOneEvent : Prop :=
  ∀ s : State, ∃ t, step s = .next t ∧ t.env.pending = s.env.pending.tail

/-- R140: with no step of an agent pending, the core does nothing. That a step is then taken at all is the
model's choice (notes/assumptions/4.md). -/
def Obligations.IdleMachineDoesNothing : Prop :=
  ∀ s : State, s.env.pending = [] → step s = .next s

/-! ## Control commands and reset -/

/-- R121: NOP does nothing, as a command and as a CMD write of its word; the two near words are illegal and
raise BADCMD. -/
def Obligations.NopDoesNothing : Prop :=
  decode 0x00000000#32 = .command .nop ∧
  ∀ s : State, exec .nop s = .next s ∧ command 0x00000000#32 s = .next s ∧
    command 0x00000001#32 s = .next { s with sticky := s.sticky.set .badCmd } ∧
    command 0x00000100#32 s = .next { s with sticky := s.sticky.set .badCmd }

/-- R122: what SOFT_RESET resets and what it keeps. After it INT_STAT reads 2 and the IRQ output follows
IRQ_EN bit 1. -/
def Obligations.SoftResetResetsEnginesKeepsConfiguration : Prop :=
  decode 0x06000000#32 = .command .softReset ∧
  ∀ s : State, ∃ t, exec .softReset s = .next t ∧
    t.tx.active = none ∧ t.tx.pending = none ∧
    t.rx.state = .idle ∧ t.rx.p = ⟨0, 0, 0, 0, 0, .off, 0, 0, false⟩ ∧ t.rx.m = 0 ∧ t.rx.k = 0 ∧
    t.rx.acc = [] ∧ t.rx.last = none ∧ t.rxq = [] ∧ (∀ c, t.sticky.has c = false) ∧ t.ambigIdx = 0 ∧
    t.regs = s.regs ∧ t.env = s.env ∧
    readView .intStat t = 0x00000002#32 ∧ irq t = s.regs.irqEn.getLsbD 1

/-- R143: the hardware reset and SOFT_RESET differ only in the configuration registers. -/
def Obligations.SoftAndHardResetDifferOnlyInConfiguration : Prop :=
  ∀ s : State, ∃ t, exec .softReset s = .next t ∧ t = (hardwareReset s).setRegs s.regs ∧
    ∀ r : Reg, r.access = .rw → readView r (hardwareReset s) = 0

/-- R142: right after the hardware reset step, what STATUS, INT_STAT and every RW register read; IRQ is low; and TX_SEND and
RX_START are refused with CFGERR. -/
def Obligations.AfterHardwareReset : Prop :=
  ∀ (s : State) (es : List Event), s.env.pending = .reset :: es → ∃ t, step s = .next t ∧
    readView .status t = 0x00000000#32 ∧ readView .intStat t = 0x00000002#32 ∧ readView .irqEn t = 0 ∧
    irq t = false ∧ (∀ r : Reg, r.access = .rw → readView r t = 0) ∧
    (∀ b : Byte, exec (.txSend b) t = .next { t with sticky := t.sticky.set .cfgErr }) ∧
    exec .rxStart t = .next { t with sticky := t.sticky.set .cfgErr }

/-- R17, R43, R141: the hardware reset step sets every element of the core's state to its reset value, and
every register then reads its reset value. That the agents' record stays is the model's choice
(notes/assumptions/9.md). -/
def Obligations.HardwareResetSetsEveryElement : Prop :=
  ∀ (s : State) (es : List Event), s.env.pending = .reset :: es → ∃ t, step s = .next t ∧
    t.env = ⟨es, s.env.emitted, s.env.answers⟩ ∧
    t.tx = ⟨none, none⟩ ∧ t.rx = ⟨.idle, ⟨0, 0, 0, 0, 0, .off, 0, 0, false⟩, 0, 0, [], none⟩ ∧ t.rxq = [] ∧
    (∀ c, t.sticky.has c = false) ∧ t.ambigIdx = 0 ∧
    readView .id t = 0x4D524601#32 ∧ readView .intStat t = 0x00000002#32 ∧
    ∀ r : Reg, r ≠ .id → r ≠ .intStat → readView r t = 0

/-! ## Modulator -/

/-- R85, R86, R87, R88: a TX_SEND with a valid configuration and no frame pending is accepted. Its snapshot
starts at once, or is pending behind the active frame; TRUNC is raised exactly when the frame is too short;
nothing else changes. -/
def Obligations.TxSendAccepted : Prop :=
  ∀ (s : State) (b : Byte), s.regs.slotLen ≠ 0 → s.regs.carDen ≠ 0 → s.regs.txLen ≠ 0 →
    s.regs.aLow.toInt < s.regs.aHigh.toInt → s.tx.pending = none →
    ∃ p : TxParams,
      p = ⟨s.regs.ctrl.cz, s.regs.aLow, s.regs.aHigh, s.regs.carNum, s.regs.carDen, s.regs.txLen,
        s.regs.slotLen, s.regs.preLen⟩ ∧
      exec (.txSend b) s = .next { s with
        sticky := if p.N.toNat < (p.P.toNat + 9) * p.S.toNat then s.sticky.set .trunc else s.sticky
        tx := if s.tx.active = none then ⟨some ⟨b, p, 0⟩, none⟩ else ⟨s.tx.active, some ⟨b, p⟩⟩ }

/-- R84: TX_SEND is refused with CFGERR, and nothing else happens, if any of the four conditions holds. -/
def Obligations.TxSendRefusedOnBadConfiguration : Prop :=
  ∀ (s : State) (b : Byte),
    (s.regs.slotLen = 0 ∨ s.regs.carDen = 0 ∨ s.regs.txLen = 0 ∨ ¬ s.regs.aLow.toInt < s.regs.aHigh.toInt) →
    exec (.txSend b) s = .next { s with sticky := s.sticky.set .cfgErr }

/-- R86, R88, R128: a TX_SEND with a valid configuration while a frame is pending is dropped with TXOVF. -/
def Obligations.TxSendDroppedWhilePending : Prop :=
  ∀ (s : State) (b : Byte) (f : PendingFrame), s.regs.slotLen ≠ 0 → s.regs.carDen ≠ 0 → s.regs.txLen ≠ 0 →
    s.regs.aLow.toInt < s.regs.aHigh.toInt → s.tx.pending = some f →
    exec (.txSend b) s = .next { s with sticky := s.sticky.set .txOvf }

/-- R92: TX_ABORT drops both frames, raises nothing and changes nothing else; TX_POS then reads 0. -/
def Obligations.TxAbortDropsBothFrames : Prop :=
  decode 0x02000000#32 = .command .txAbort ∧
  ∀ s : State, ∃ t, exec .txAbort s = .next t ∧ t = { s with tx := ⟨none, none⟩ } ∧ readView .txPos t = 0

/-- R89, R90: a PULL while a frame is active hands `word(b, p, n)` to the sink and advances the index; after
sample N - 1 it raises TXDONE, and the pending frame starts at 0 or the engine is idle. Nothing else changes. -/
def Obligations.PullEmitsTheNextSample : Prop :=
  ∀ (s : State) (es : List Event) (f : ActiveFrame),
    s.env.pending = .pull :: es → s.tx.active = some f →
    step s = .next { s with
      env := ⟨es, s.env.emitted ++ [u32 (enc f.b f.p f.n)], s.env.answers⟩
      sticky := if f.n + 1 = f.p.N.toNat then s.sticky.set .txDone else s.sticky
      tx :=
        if f.n + 1 = f.p.N.toNat then
          ⟨s.tx.pending.map fun g => ⟨g.b, g.p, 0⟩, none⟩
        else ⟨some ⟨f.b, f.p, f.n + 1⟩, s.tx.pending⟩ }

/-- R91: while no frame is active a sink that asks is handed nothing and the core does not change. That the
request is then spent is the model's choice (notes/assumptions/2.md). -/
def Obligations.PullWithoutFrameEmitsNothing : Prop :=
  ∀ (s : State) (es : List Event), s.env.pending = .pull :: es → s.tx.active = none →
    step s = .next (s.setPending es)

/-- R83, R63: a frame that starts is emitted as exactly its N sample words, in index order, and never more:
after `j` PULLs its first `j` words are out, and after N of them TXDONE is set and the pending frame, if any,
is at its sample 0. -/
def Obligations.FrameIsEmittedWholeAndInOrder : Prop :=
  ∀ (s : State) (b : Byte) (p : TxParams) (j : Nat), s.tx.active = some ⟨b, p, 0⟩ → j ≤ p.N.toNat →
    0 < p.N.toNat →
    pulls j s = { s with
      env := { s.env with emitted := s.env.emitted ++ (frameWords b p).take j }
      sticky := if j = p.N.toNat then s.sticky.set .txDone else s.sticky
      tx :=
        if j = p.N.toNat then ⟨s.tx.pending.map fun g => ⟨g.b, g.p, 0⟩, none⟩
        else ⟨some ⟨b, p, j⟩, s.tx.pending⟩ }

/-- R76, R90: a pending frame follows the active one with no gap, and its carrier starts again at phase 0. -/
def Obligations.PendingFrameFollowsWithoutGap : Prop :=
  ∀ (s : State) (b c : Byte) (p q : TxParams), s.tx.active = some ⟨b, p, 0⟩ → s.tx.pending = some ⟨c, q⟩ →
    0 < p.N.toNat → 0 < q.N.toNat →
    (pulls (p.N.toNat + q.N.toNat) s).env.emitted = s.env.emitted ++ frameWords b p ++ frameWords c q ∧
    (pulls (p.N.toNat + q.N.toNat) s).tx = ⟨none, none⟩

/-- R75: at `cz = 0` the carrier is the source's `sign(sin(2π f_c t))` at `t = n / f_s`; at `cz = 1` it
differs only at the zero crossings, +1 at phase 0 and -1 at phase 1/2. -/
def Obligations.CarrierIsTheSignOfTheSine : Prop :=
  ∀ (p : TxParams) (n : Nat), p.fs ≠ 0 →
    (p.cz = false →
      (car p n : ℝ) = Real.sign (Real.sin (2 * Real.pi * p.fc.toNat * ((n : ℝ) / p.fs.toNat)))) ∧
    (p.cz = true →
      (car p n : ℝ) =
        if (p.fc.toNat * n) % p.fs.toNat = 0 then 1
        else if 2 * ((p.fc.toNat * n) % p.fs.toNat) = p.fs.toNat then -1
        else Real.sign (Real.sin (2 * Real.pi * p.fc.toNat * ((n : ℝ) / p.fs.toNat))))

/-- R77: the phase accumulator gives the phase of every sample. -/
def Obligations.PhaseAccumulatorGivesThePhase : Prop :=
  ∀ (p : TxParams) (n : Nat), p.fs ≠ 0 → phaseAccumulator p n = (p.fc.toNat * n) % p.fs.toNat

/-- R78 to R81: what each part of a frame carries. The preamble alternates from low; data slot `P + i` sends
bit `b[7 - i]`, high for 0 and low for 1, times the carrier; everything after is the constant low level. -/
def Obligations.FrameLayout : Prop :=
  ∀ (b : Byte) (p : TxParams) (n : Nat), p.S ≠ 0 →
    (∀ k, k < p.P.toNat → k * p.S.toNat ≤ n → n < (k + 1) * p.S.toNat →
      enc b p n = car p n * if k % 2 = 0 then p.aLow.toInt else p.aHigh.toInt) ∧
    (∀ i, i < 8 → (p.P.toNat + i) * p.S.toNat ≤ n → n < (p.P.toNat + i + 1) * p.S.toNat →
      enc b p n = car p n * if b.getLsbD (7 - i) then p.aLow.toInt else p.aHigh.toInt) ∧
    ((p.P.toNat + 8) * p.S.toNat ≤ n → enc b p n = p.aLow.toInt)

/-- R82: every value of ENC lies in [-32768, 32768], so the output word holds it exactly. -/
def Obligations.FrameValuesFitTheSampleWord : Prop :=
  ∀ (b : Byte) (p : TxParams) (n : Nat),
    -32768 ≤ enc b p n ∧ enc b p n ≤ 32768 ∧ (sampleWord b p n).toInt = enc b p n

/-! ## Demodulator -/

/-- R96, R97: an RX_START whose configuration passes the check latches the parameters, takes the threshold
(the midpoint rounded toward minus infinity, or RX_THRESH), and arms a fresh session. Nothing else changes. -/
def Obligations.RxStartArmsAFreshSession : Prop :=
  ∀ s : State, s.regs.rxSlotLen ≠ 0 →
    (s.regs.rxFrameLen = 0 ∨
      s.regs.rxOffset.toNat + (s.regs.rxSkip.toNat + 7) * s.regs.rxSlotLen.toNat < s.regs.rxFrameLen.toNat) →
    (s.regs.ctrl.thrAuto = true → 2 ≤ s.regs.aHigh.toInt - s.regs.aLow.toInt) →
    ∃ T : Word,
      (s.regs.ctrl.thrAuto = true →
        2 * T.toInt ≤ s.regs.aLow.toInt + s.regs.aHigh.toInt ∧
        s.regs.aLow.toInt + s.regs.aHigh.toInt < 2 * T.toInt + 2) ∧
      (s.regs.ctrl.thrAuto = false → T = s.regs.rxThresh) ∧
      exec .rxStart s = .next { s with
        rx := ⟨.armed, ⟨s.regs.rxSlotLen, s.regs.rxOffset, s.regs.rxSkip, s.regs.rxFrameLen, T,
          s.regs.ctrl.dzMode, s.regs.dzLo, s.regs.dzHi, s.regs.ctrl.rxInv⟩, 0, 0, [], none⟩ }

/-- R95: RX_START is refused with CFGERR, and nothing else changes, if any of the three conditions holds. -/
def Obligations.RxStartRefusedOnBadConfiguration : Prop :=
  ∀ s : State,
    (s.regs.rxSlotLen = 0 ∨
      (s.regs.rxFrameLen ≠ 0 ∧
        s.regs.rxFrameLen.toNat ≤
          s.regs.rxOffset.toNat + (s.regs.rxSkip.toNat + 7) * s.regs.rxSlotLen.toNat) ∨
      (s.regs.ctrl.thrAuto = true ∧ s.regs.aHigh.toInt - s.regs.aLow.toInt < 2)) →
    exec .rxStart s = .next { s with sticky := s.sticky.set .cfgErr }

/-- R98: RX_STOP puts the engine in IDLE and keeps everything else, the accumulator and counters included. -/
def Obligations.RxStopKeepsTheAccumulator : Prop :=
  decode 0x04000000#32 = .command .rxStop ∧
  ∀ s : State, ∃ t, exec .rxStop s = .next t ∧ t = { s with rx := { s.rx with state := .idle } } ∧
    readView .rxAcc t = readView .rxAcc s ∧ readView .rxPos t = readView .rxPos s

/-- R99: RX_FIFO_CLEAR empties the FIFO and changes nothing else; RXAVL and RXQ_COUNT become 0. -/
def Obligations.RxFifoClearEmptiesTheFifo : Prop :=
  decode 0x05000000#32 = .command .rxFifoClear ∧
  ∀ s : State, ∃ t, exec .rxFifoClear s = .next t ∧ t = { s with rxq := [] } ∧
    (readView .intStat t).getLsbD 2 = false ∧ (readView .status t).extractLsb' 4 4 = 0 ∧
    readView .rxData t = 0

/-- R101: in IDLE an input sample is discarded and changes no state. -/
def Obligations.IdleReceiverDiscardsSamples : Prop :=
  ∀ (s : State) (es : List Event) (w : Word), s.env.pending = .push w :: es → s.rx.state = .idle →
    step s = .next (s.setPending es)

/-- R100, R102: the first sample of a session moves ARMED to RUN and raises RXSTART whatever its value, and
it is the sample of index 0. The step is that of the same sample in RUN with RXSTART raised (`r`), where the
statements on a sample in RUN apply. So if the first decision lies later, the sample only counts; if it lies
at index 0, it is taken on `r` at once: outside the dead zone the classified bit is appended; inside, AMBIG
is raised with index 0 if it was clear, and drop, or hold with no bit yet, appends nothing, while hold with a
bit appends it again. -/
def Obligations.FirstSampleStartsDecoding : Prop :=
  ∀ (s : State) (es : List Event) (w : Word), s.env.pending = .push w :: es → s.rx.state = .armed →
    s.rx.m = 0 → s.rx.k = 0 →
    ∃ r t a u : State,
      r = { s with sticky := s.sticky.set .rxStart, rx := { s.rx with state := .run } } ∧
      step s = step r ∧ step s = .next t ∧
      t.rx.state = .run ∧ t.sticky.has .rxStart = true ∧ t.rx.m = 1 ∧ t.rx.p = s.rx.p ∧
      t.rx.k = (if sched s.rx.p 0 = 0 then 1 else 0) ∧
      (sched s.rx.p 0 ≠ 0 → t = ({ r with rx := { r.rx with m := 1 } }.setPending es)) ∧
      (sched s.rx.p 0 = 0 → t = u.setRx { u.rx with m := 1, k := 1 }) ∧
      ((s.rx.p.dzMode = .off ∨ w.toInt ≤ s.rx.p.dzLo.toInt ∨ s.rx.p.dzHi.toInt ≤ w.toInt) →
        ∃ x : Bool, (s.rx.p.inv = false → (x = true ↔ s.rx.p.T.toInt ≤ w.toInt)) ∧
          (s.rx.p.inv = true → (x = true ↔ w.toInt < s.rx.p.T.toInt)) ∧ u = appendBit x (r.setPending es)) ∧
      (s.rx.p.dzMode ≠ .off → s.rx.p.dzLo.toInt < w.toInt → w.toInt < s.rx.p.dzHi.toInt →
        a = { r with
          sticky := r.sticky.set .ambig
          ambigIdx := if s.sticky.has .ambig then s.ambigIdx else 0 }.setPending es ∧
        (s.rx.p.dzMode = .drop → u = a) ∧
        (s.rx.p.dzMode = .hold → s.rx.last = none → u = a) ∧
        (∀ x, s.rx.p.dzMode = .hold → s.rx.last = some x → u = appendBit x a))

/-- R100: in RUN a sample that is not a decision point changes only `rx.m`. -/
def Obligations.SampleBetweenDecisionsOnlyCounts : Prop :=
  ∀ (s : State) (es : List Event) (w : Word), s.env.pending = .push w :: es → s.rx.state = .run →
    s.rx.m ≠ sched s.rx.p s.rx.k →
    step s = .next ({ s with rx := { s.rx with m := s.rx.m + 1 } }.setPending es)

/-- R108, R109, R114: in RUN at a decision point, a sample outside the dead zone is classified against the
threshold as a signed number, inverted if `inv`, and appended; both counters advance. -/
def Obligations.DecisionAppendsTheClassifiedBit : Prop :=
  ∀ (s : State) (es : List Event) (w : Word), s.env.pending = .push w :: es → s.rx.state = .run →
    s.rx.m = sched s.rx.p s.rx.k →
    (s.rx.p.dzMode = .off ∨ w.toInt ≤ s.rx.p.dzLo.toInt ∨ s.rx.p.dzHi.toInt ≤ w.toInt) →
    ∃ (x : Bool) (u : State),
      (s.rx.p.inv = false → (x = true ↔ s.rx.p.T.toInt ≤ w.toInt)) ∧
      (s.rx.p.inv = true → (x = true ↔ w.toInt < s.rx.p.T.toInt)) ∧
      u = appendBit x (s.setPending es) ∧
      step s = .next (u.setRx { u.rx with m := s.rx.m + 1, k := s.rx.k + 1 })

/-- R111, R112, R113: in RUN at a decision point, a sample strictly inside the dead zone raises AMBIG and
records the index if AMBIG was clear. Drop, or hold with no bit yet, appends nothing; hold appends the last
bit again. Both counters advance. -/
def Obligations.DeadZoneDropsOrHolds : Prop :=
  ∀ (s : State) (es : List Event) (w : Word), s.env.pending = .push w :: es → s.rx.state = .run →
    s.rx.m = sched s.rx.p s.rx.k → s.rx.p.dzMode ≠ .off → s.rx.p.dzLo.toInt < w.toInt →
    w.toInt < s.rx.p.dzHi.toInt →
    ∃ a u : State,
      a = { s with
        sticky := s.sticky.set .ambig
        ambigIdx := if s.sticky.has .ambig then s.ambigIdx else BitVec.ofNat 32 s.rx.m }.setPending es ∧
      (s.rx.p.dzMode = .drop → u = a) ∧
      (s.rx.p.dzMode = .hold → s.rx.last = none → u = a) ∧
      (∀ x, s.rx.p.dzMode = .hold → s.rx.last = some x → u = appendBit x a) ∧
      step s = .next (u.setRx { u.rx with m := s.rx.m + 1, k := s.rx.k + 1 })

/-- R114, R115, R116: an appended bit lengthens the accumulator; the eighth flushes it as a byte, first bit
most significant, into the FIFO, or loses the byte with RXOVF when 8 are queued. Nothing else changes. -/
def Obligations.EighthBitFlushesOneByte : Prop :=
  ∀ (s : State) (x : Bool), s.rx.acc.length ≤ 7 →
    (s.rx.acc.length < 7 →
      appendBit x s = { s with rx := { s.rx with acc := s.rx.acc ++ [x], last := some x } }) ∧
    (s.rx.acc.length = 7 → ∃ byte : Byte,
      (∀ j, j < 8 → byte.getLsbD (7 - j) = (s.rx.acc ++ [x]).getD j false) ∧
      appendBit x s = { s with
        rx := { s.rx with acc := [], last := some x }
        rxq := if s.rxq.length < 8 then s.rxq ++ [byte] else s.rxq
        sticky := if s.rxq.length < 8 then s.sticky else s.sticky.set .rxOvf })

/-- R118: with `inv = 0`, for all `v1 < T <= v2`, `slice(v1) = 0` and `slice(v2) = 1`; with `inv = 1` each
is inverted (R109). -/
def Obligations.SlicerIsMonotonic : Prop :=
  ∀ (p : RxParams) (v1 v2 : Int), v1 < p.T.toInt → p.T.toInt ≤ v2 →
    (p.inv = false → slice p v1 = false ∧ slice p v2 = true) ∧
    (p.inv = true → slice p v1 = true ∧ slice p v2 = false)

/-- R104: where the decision points lie, unframed and framed. -/
def Obligations.ScheduleOfDecisions : Prop :=
  ∀ p : RxParams,
    (p.fl = 0 → ∀ k, sched p k = p.off.toNat + (p.skip.toNat + k) * p.sl.toNat) ∧
    (p.fl ≠ 0 → ∀ f i, i < 8 →
      sched p (8 * f + i) = f * p.fl.toNat + p.off.toNat + (p.skip.toNat + i) * p.sl.toNat)

/-- R105: for checked parameters the schedule is strictly increasing, and in framed mode the decisions of a
frame lie before the next frame and those of the next not before it. -/
def Obligations.ScheduleIsStrictlyIncreasing : Prop :=
  ∀ p : RxParams, scheduleOk p = true →
    (∀ j k, j < k → sched p j < sched p k) ∧
    (p.fl ≠ 0 → ∀ f, sched p (8 * f + 7) < (f + 1) * p.fl.toNat ∧ (f + 1) * p.fl.toNat ≤ sched p (8 * f + 8))

/-- R120, framed: frames sent back to back over a direct link into a receiver armed before their first
sample are decoded to the bytes sent when `inv = 1`, and to their complements when `inv = 0`. -/
def Obligations.DirectLinkRoundTrip : Prop :=
  ∀ (s : State) (p : TxParams) (bs : List Byte), txConfigOk p = true →
    s.rx.state = .armed → s.rx.m = 0 → s.rx.k = 0 → s.rx.acc = [] →
    s.rxq.length + bs.length ≤ 8 →
    s.rx.p.sl = p.S → s.rx.p.skip = p.P → s.rx.p.fl = p.N → s.rx.p.off.toNat < p.S.toNat →
    s.rx.p.off.toNat + (p.P.toNat + 7) * p.S.toNat < p.N.toNat →
    (s.rx.p.dzMode = .off ∨
      (¬ (s.rx.p.dzLo.toInt < p.aLow.toInt ∧ p.aLow.toInt < s.rx.p.dzHi.toInt) ∧
       ¬ (s.rx.p.dzLo.toInt < p.aHigh.toInt ∧ p.aHigh.toInt < s.rx.p.dzHi.toInt))) →
    (∀ i, i < 8 → car p (s.rx.p.off.toNat + (p.P.toNat + i) * p.S.toNat) = 1) →
    p.aLow.toInt < s.rx.p.T.toInt → s.rx.p.T.toInt ≤ p.aHigh.toInt →
    (pushAll (bs.flatMap fun b => frameWords b p) s).rxq =
      s.rxq ++ bs.map fun b => if s.rx.p.inv then b else ~~~b

/-- R120, unframed: one frame, long enough for its data decisions, is decoded to the byte sent when
`inv = 1`, and to its complement when `inv = 0`. -/
def Obligations.DirectLinkRoundTripUnframed : Prop :=
  ∀ (s : State) (p : TxParams) (b : Byte), txConfigOk p = true →
    s.rx.state = .armed → s.rx.m = 0 → s.rx.k = 0 → s.rx.acc = [] → s.rxq.length < 8 →
    s.rx.p.sl = p.S → s.rx.p.skip = p.P → s.rx.p.fl = 0 → s.rx.p.off.toNat < p.S.toNat →
    s.rx.p.off.toNat + (p.P.toNat + 7) * p.S.toNat < p.N.toNat →
    (s.rx.p.dzMode = .off ∨
      (¬ (s.rx.p.dzLo.toInt < p.aLow.toInt ∧ p.aLow.toInt < s.rx.p.dzHi.toInt) ∧
       ¬ (s.rx.p.dzLo.toInt < p.aHigh.toInt ∧ p.aHigh.toInt < s.rx.p.dzHi.toInt))) →
    (∀ i, i < 8 → car p (s.rx.p.off.toNat + (p.P.toNat + i) * p.S.toNat) = 1) →
    p.aLow.toInt < s.rx.p.T.toInt → s.rx.p.T.toInt ≤ p.aHigh.toInt →
    ∃ rest, (pushAll (frameWords b p) s).rxq = s.rxq ++ (if s.rx.p.inv then b else ~~~b) :: rest

/-! ## Bus and registers -/

/-- R45: a transaction is answered ERR exactly when it is not a whole aligned word at one of the 26 offsets;
one answered ERR changes no state, sets no cause and carries read data 0. -/
def Obligations.BusAnswersErrExactlyWhenUnmapped : Prop :=
  Answer.err.rdata = 0 ∧
  ∀ (s : State) (es : List Event) (t : Transaction) (off size : Nat),
    (t = .read off size ∨ ∃ v, t = .write off size v) → s.env.pending = .bus t :: es →
    (size = 4 ∧ off % 4 = 0 ∧
      off ∈ [0x00, 0x04, 0x08, 0x0C, 0x10, 0x14, 0x20, 0x24, 0x28, 0x2C, 0x30, 0x34, 0x38, 0x3C, 0x40, 0x44,
        0x48, 0x4C, 0x50, 0x54, 0x58, 0x5C, 0x60, 0x64, 0x68, 0x6C] →
      ∃ u rdata, step s = .next u ∧ u.env.answers = s.env.answers ++ [.ok rdata]) ∧
    (¬ (size = 4 ∧ off % 4 = 0 ∧
      off ∈ [0x00, 0x04, 0x08, 0x0C, 0x10, 0x14, 0x20, 0x24, 0x28, 0x2C, 0x30, 0x34, 0x38, 0x3C, 0x40, 0x44,
        0x48, 0x4C, 0x50, 0x54, 0x58, 0x5C, 0x60, 0x64, 0x68, 0x6C]) →
      step s = .next ((s.setPending es).answer .err))

/-- R46: a READ of any register but RX_DATA answers its view and changes no state. In every state the view
of ID is 0x4D524601 (R18) and that of CMD is 0 (R34). The registers are at the offsets of R17. -/
def Obligations.ReadsAnswerTheViewAndChangeNothing : Prop :=
  (∀ (s : State) (es : List Event) (r : Reg), r ≠ .rxData → s.env.pending = .bus (.read r.offset 4) :: es →
    step s = .next ((s.setPending es).answer (.ok (readView r s)))) ∧
  (∀ s : State, readView .id s = 0x4D524601#32 ∧ readView .cmd s = 0#32) ∧
  [Reg.id, .ctrl, .status, .cmd, .intStat, .irqEn].map Reg.offset = [0x00, 0x04, 0x08, 0x0C, 0x10, 0x14] ∧
  [Reg.aLow, .aHigh, .carNum, .carDen, .txLen, .slotLen, .preLen, .txPos].map Reg.offset =
    [0x20, 0x24, 0x28, 0x2C, 0x30, 0x34, 0x38, 0x3C] ∧
  [Reg.rxThresh, .dzLo, .dzHi, .rxSlotLen, .rxOffset, .rxSkip, .rxFrameLen, .rxPos].map Reg.offset =
    [0x40, 0x44, 0x48, 0x4C, 0x50, 0x54, 0x58, 0x5C] ∧
  [Reg.rxData, .rxAcc, .ambigIdx, .rxThrEff].map Reg.offset = [0x60, 0x64, 0x68, 0x6C]

/-- R28, R51: a READ of RX_DATA takes the head byte and removes it in one step; on an empty FIFO it reads 0
and changes nothing. -/
def Obligations.RxDataReadPopsTheFifo : Prop :=
  ∀ (s : State) (es : List Event), s.env.pending = .bus (.read 0x60 4) :: es →
    (∀ b q, s.rxq = b :: q →
      step s = .next (({ s with rxq := q }.setPending es).answer (.ok (0x80000000#32 ||| b.setWidth 32)))) ∧
    (s.rxq = [] → step s = .next ((s.setPending es).answer (.ok 0)))

/-- R47, with R20, R21, R22, R23, R26, R27, R31: a WRITE to an RW register stores the bits its rule names,
and no other register's view, no accepted frame, no receive session, no byte and no cause changes. -/
def Obligations.ConfigurationWriteStoresItsFieldsOnly : Prop :=
  ∀ (s : State) (es : List Event) (r : Reg) (v : Word), r.access = .rw →
    s.env.pending = .bus (.write r.offset 4 v) :: es → ∃ t, step s = .next t ∧
    t.env = ⟨es, s.env.emitted, s.env.answers ++ [.ok 0]⟩ ∧
    (r = .ctrl → readView r t = (v &&& 0x13#32) |||
      (if v.extractLsb' 2 2 = 3 then readView .ctrl s &&& 0x0C#32 else v &&& 0x0C#32)) ∧
    (r = .irqEn → readView r t = v &&& 0x3FF#32) ∧
    (r = .aLow ∨ r = .aHigh → readView r t = (v.setWidth 16).signExtend 32) ∧
    (r = .preLen ∨ r = .rxSkip → readView r t = v &&& 0xFF#32) ∧
    (r ∉ [Reg.ctrl, .irqEn, .aLow, .aHigh, .preLen, .rxSkip] → readView r t = v) ∧
    (∀ q : Reg, q ≠ r → readView q t = readView q s) ∧
    t.tx = s.tx ∧ t.rx = s.rx ∧ t.rxq = s.rxq ∧ t.sticky = s.sticky ∧ t.ambigIdx = s.ambigIdx

/-- R48: a WRITE to an RO register is answered OK and changes no state. -/
def Obligations.ReadOnlyRegistersIgnoreWrites : Prop :=
  ∀ (s : State) (es : List Event) (r : Reg) (v : Word),
    r ∈ [Reg.id, .status, .txPos, .rxPos, .rxData, .rxAcc, .ambigIdx, .rxThrEff] →
    s.env.pending = .bus (.write r.offset 4 v) :: es → step s = .next ((s.setPending es).answer (.ok 0))

/-- R49: a WRITE to INT_STAT clears exactly the sticky bits written as 1, leaves the two levels, and changes
nothing else. -/
def Obligations.IntStatWriteClearsWrittenOnes : Prop :=
  ∀ (s : State) (es : List Event) (v : Word), s.env.pending = .bus (.write 0x10 4 v) :: es →
    ∃ f : Sticky, step s = .next (({ s with sticky := f }.setPending es).answer (.ok 0)) ∧
      ∀ i, (readView .intStat { s with sticky := f }).getLsbD i =
        if i = 1 ∨ i = 2 then (readView .intStat s).getLsbD i
        else (readView .intStat s).getLsbD i && !v.getLsbD i

/-- R24: the fields of STATUS, for a FIFO within its depth. -/
def Obligations.StatusShowsTheEngines : Prop :=
  ∀ s : State, s.rxq.length ≤ 8 →
    ((readView .status s).getLsbD 0 = true ↔ s.tx.active ≠ none) ∧
    ((readView .status s).getLsbD 1 = true ↔ s.tx.pending ≠ none) ∧
    ((readView .status s).extractLsb' 2 2).toNat =
      (match s.rx.state with | .idle => 0 | .armed => 1 | .run => 2) ∧
    ((readView .status s).extractLsb' 4 4).toNat = s.rxq.length ∧ (readView .status s).extractLsb' 8 24 = 0

/-- R29: the fields of RX_ACC, for an accumulator of at most 7 bits. -/
def Obligations.RxAccShowsTheAccumulator : Prop :=
  ∀ s : State, s.rx.acc.length ≤ 7 →
    (readView .rxAcc s).toNat =
      (∑ j ∈ Finset.range s.rx.acc.length,
        (s.rx.acc.getD j false).toNat * 2 ^ (s.rx.acc.length - 1 - j)) +
      2 ^ 8 * s.rx.acc.length + 2 ^ 12 * s.rx.last.isSome.toNat + 2 ^ 13 * (s.rx.last.getD false).toNat

/-- R25, R32, R33: the position counters show the low 32 bits of the indices, AMBIG_IDX and RX_THR_EFF the
stored words. -/
def Obligations.PositionAndIndexViews : Prop :=
  ∀ s : State,
    (∀ f, s.tx.active = some f → (readView .txPos s).toNat = f.n % 2 ^ 32) ∧
    (s.tx.active = none → readView .txPos s = 0) ∧
    (readView .rxPos s).toNat = s.rx.m % 2 ^ 32 ∧
    readView .ambigIdx s = s.ambigIdx ∧ readView .rxThrEff s = s.rx.p.T

/-! ## Causes and interrupt -/

/-- R30, R126: every bit of INT_STAT by its number: the eight sticky bits, the two levels, and 0 above bit 9.
The numbers are the causes' codes, and raising a cause sets the bit of its code and no other. -/
def Obligations.IntStatBits : Prop :=
  (∀ s : State,
    (readView .intStat s).getLsbD 0 = s.sticky.has .txDone ∧
    ((readView .intStat s).getLsbD 1 = true ↔ s.tx.pending = none) ∧
    ((readView .intStat s).getLsbD 2 = true ↔ s.rxq ≠ []) ∧
    (readView .intStat s).getLsbD 3 = s.sticky.has .rxStart ∧
    (readView .intStat s).getLsbD 4 = s.sticky.has .ambig ∧
    (readView .intStat s).getLsbD 5 = s.sticky.has .rxOvf ∧
    (readView .intStat s).getLsbD 6 = s.sticky.has .txOvf ∧
    (readView .intStat s).getLsbD 7 = s.sticky.has .trunc ∧
    (readView .intStat s).getLsbD 8 = s.sticky.has .cfgErr ∧
    (readView .intStat s).getLsbD 9 = s.sticky.has .badCmd ∧
    ∀ i, 10 ≤ i → (readView .intStat s).getLsbD i = false) ∧
  [Cause.txDone, .rxStart, .ambig, .rxOvf, .txOvf, .trunc, .cfgErr, .badCmd].map Cause.code =
    [0, 3, 4, 5, 6, 7, 8, 9] ∧
  ∀ (s : State) (c : Cause) (i : Nat),
    (readView .intStat (raise c s)).getLsbD i = (i == c.code || (readView .intStat s).getLsbD i)

/-- R130: IRQ is the OR over i in 0..9 of INT_STAT[i] AND IRQ_EN[i], of the registers as the host reads
them. -/
def Obligations.IrqIsTheOrOfEnabledCauses : Prop :=
  ∀ s : State, irq s = true ↔
    ∃ i, i < 10 ∧ (readView .intStat s).getLsbD i = true ∧ (readView .irqEn s).getLsbD i = true

/-- R126: which operation can raise each cause: one that was clear and is set after a step was raised by the
operation the table names. -/
def Obligations.CausesAreRaisedByTheirOperations : Prop :=
  ∀ (s t : State) (e : Event) (es : List Event) (c : Cause),
    s.env.pending = e :: es → step s = .next t → s.sticky.has c = false → t.sticky.has c = true →
    match c with
    | .txDone => e = .pull
    | .rxStart => s.rx.state = .armed ∧ ∃ w, e = .push w
    | .ambig => s.rx.p.dzMode ≠ .off ∧ ∃ w, e = .push w
    | .rxOvf => 8 ≤ s.rxq.length ∧ ∃ w, e = .push w
    | .txOvf => s.tx.pending ≠ none ∧ ∃ v b, e = .bus (.write 0x0C 4 v) ∧ decode v = .command (.txSend b)
    | .trunc => s.tx.pending = none ∧ ∃ v b, e = .bus (.write 0x0C 4 v) ∧ decode v = .command (.txSend b)
    | .cfgErr => ∃ v, e = .bus (.write 0x0C 4 v) ∧
        ((∃ b, decode v = .command (.txSend b)) ∨ decode v = .command .rxStart)
    | .badCmd => ∃ v why, e = .bus (.write 0x0C 4 v) ∧ decode v = .invalid why

/-- R30, R131: a sticky bit is cleared only by a host write of 1 to it, by SOFT_RESET, or by a reset. -/
def Obligations.StickyBitsAreClearedOnlyByHostOrReset : Prop :=
  ∀ (s t : State) (e : Event) (es : List Event) (c : Cause),
    s.env.pending = e :: es → step s = .next t → s.sticky.has c = true → t.sticky.has c = false →
    e = .reset ∨ e = .bus (.write 0x0C 4 0x06000000#32) ∨
      ∃ v : Word, e = .bus (.write 0x10 4 v) ∧ v.getLsbD c.code = true

/-- R128: one CMD write raises at most one cause. -/
def Obligations.CommandWriteRaisesAtMostOneCause : Prop :=
  ∀ (s t : State) (es : List Event) (v : Word) (c d : Cause),
    s.env.pending = .bus (.write 0x0C 4 v) :: es → step s = .next t →
    s.sticky.has c = false → t.sticky.has c = true → s.sticky.has d = false → t.sticky.has d = true → c = d

/-- R38: the latched receive parameters change only by RX_START, SOFT_RESET or a reset. -/
def Obligations.LatchedRxParametersChangeOnlyByStartOrReset : Prop :=
  ∀ (s t : State) (e : Event) (es : List Event), s.env.pending = e :: es → step s = .next t →
    t.rx.p ≠ s.rx.p →
    e = .reset ∨ e = .bus (.write 0x0C 4 0x03000000#32) ∨ e = .bus (.write 0x0C 4 0x06000000#32)

/-- R89, R100: the two streams do not touch each other. A PULL leaves the receive side, the configuration and
AMBIG_IDX alone; a PUSH leaves the transmit side, the configuration and the sink's samples alone. -/
def Obligations.StreamsDoNotInterfere : Prop :=
  ∀ (s t : State) (es : List Event), step s = .next t →
    (s.env.pending = .pull :: es →
      t.regs = s.regs ∧ t.rx = s.rx ∧ t.rxq = s.rxq ∧ t.ambigIdx = s.ambigIdx ∧ t.env.answers = s.env.answers ∧
      ∀ c, c ≠ .txDone → t.sticky.has c = s.sticky.has c) ∧
    (∀ w, s.env.pending = .push w :: es →
      t.regs = s.regs ∧ t.tx = s.tx ∧ t.env.emitted = s.env.emitted ∧ t.env.answers = s.env.answers ∧
      ∀ c, c ∉ [Cause.rxStart, .ambig, .rxOvf] → t.sticky.has c = s.sticky.has c)

/-! ## Invariants -/

/-- R13, R39, R84, R95, R105: every step keeps the state invariant, from every state that has it. -/
def Obligations.StepKeepsTheInvariant : Prop :=
  ∀ s t : State, s.Inv → step s = .next t → t.Inv

/-- R43: the reset state has the invariant. -/
def Obligations.ResetHasTheInvariant : Prop := State.reset.Inv

/-- R13: in every state reached from reset by any steps of the agents, a pending frame implies an active
one, the accumulator holds at most 7 bits and the FIFO at most 8 bytes. -/
def Obligations.ReachableStatesAreBounded : Prop :=
  ∀ (es : List Event) (t : State), Reaches (State.reset.setPending es) t →
    (t.tx.pending ≠ none → t.tx.active ≠ none) ∧ t.rx.acc.length ≤ 7 ∧ t.rxq.length ≤ 8

/-! ## The host's address window -/

/-- R56: a window at any base address. An access at `base + off` is the transaction at offset `off`. That an
address below the base is no transaction of the core's is the model's choice (notes/assumptions/5.md). -/
def Obligations.WindowIsPlacedAtItsBase : Prop :=
  ∀ (base off size addr : Nat) (v : Word),
    hostRead base (base + off) size = some (.read off size) ∧
    hostWrite base (base + off) size v = some (.write off size v) ∧
    (addr < base → hostRead base addr size = none ∧ hostWrite base addr size v = none)
end

