-- ==== Sys2Proof/Laws/State.lean ====
section
/-! SUPPORT. One lemma per field per record update, true by rfl, so that no proof unfolds an update. -/

namespace Sys2Proof.Machine

variable (s : State)

@[simp] theorem State.setRegs_regs (r : Regs) : (s.setRegs r).regs = r := rfl
@[simp] theorem State.setRegs_sticky (r : Regs) : (s.setRegs r).sticky = s.sticky := rfl
@[simp] theorem State.setRegs_ambigIdx (r : Regs) : (s.setRegs r).ambigIdx = s.ambigIdx := rfl
@[simp] theorem State.setRegs_tx (r : Regs) : (s.setRegs r).tx = s.tx := rfl
@[simp] theorem State.setRegs_rx (r : Regs) : (s.setRegs r).rx = s.rx := rfl
@[simp] theorem State.setRegs_rxq (r : Regs) : (s.setRegs r).rxq = s.rxq := rfl
@[simp] theorem State.setRegs_env (r : Regs) : (s.setRegs r).env = s.env := rfl

@[simp] theorem State.setSticky_regs (f : Sticky) : (s.setSticky f).regs = s.regs := rfl
@[simp] theorem State.setSticky_sticky (f : Sticky) : (s.setSticky f).sticky = f := rfl
@[simp] theorem State.setSticky_ambigIdx (f : Sticky) : (s.setSticky f).ambigIdx = s.ambigIdx := rfl
@[simp] theorem State.setSticky_tx (f : Sticky) : (s.setSticky f).tx = s.tx := rfl
@[simp] theorem State.setSticky_rx (f : Sticky) : (s.setSticky f).rx = s.rx := rfl
@[simp] theorem State.setSticky_rxq (f : Sticky) : (s.setSticky f).rxq = s.rxq := rfl
@[simp] theorem State.setSticky_env (f : Sticky) : (s.setSticky f).env = s.env := rfl

@[simp] theorem State.setAmbigIdx_regs (w : Word) : (s.setAmbigIdx w).regs = s.regs := rfl
@[simp] theorem State.setAmbigIdx_sticky (w : Word) : (s.setAmbigIdx w).sticky = s.sticky := rfl
@[simp] theorem State.setAmbigIdx_ambigIdx (w : Word) : (s.setAmbigIdx w).ambigIdx = w := rfl
@[simp] theorem State.setAmbigIdx_tx (w : Word) : (s.setAmbigIdx w).tx = s.tx := rfl
@[simp] theorem State.setAmbigIdx_rx (w : Word) : (s.setAmbigIdx w).rx = s.rx := rfl
@[simp] theorem State.setAmbigIdx_rxq (w : Word) : (s.setAmbigIdx w).rxq = s.rxq := rfl
@[simp] theorem State.setAmbigIdx_env (w : Word) : (s.setAmbigIdx w).env = s.env := rfl

@[simp] theorem State.setTx_regs (t : TxEngine) : (s.setTx t).regs = s.regs := rfl
@[simp] theorem State.setTx_sticky (t : TxEngine) : (s.setTx t).sticky = s.sticky := rfl
@[simp] theorem State.setTx_ambigIdx (t : TxEngine) : (s.setTx t).ambigIdx = s.ambigIdx := rfl
@[simp] theorem State.setTx_tx (t : TxEngine) : (s.setTx t).tx = t := rfl
@[simp] theorem State.setTx_rx (t : TxEngine) : (s.setTx t).rx = s.rx := rfl
@[simp] theorem State.setTx_rxq (t : TxEngine) : (s.setTx t).rxq = s.rxq := rfl
@[simp] theorem State.setTx_env (t : TxEngine) : (s.setTx t).env = s.env := rfl

@[simp] theorem State.setRx_regs (r : RxEngine) : (s.setRx r).regs = s.regs := rfl
@[simp] theorem State.setRx_sticky (r : RxEngine) : (s.setRx r).sticky = s.sticky := rfl
@[simp] theorem State.setRx_ambigIdx (r : RxEngine) : (s.setRx r).ambigIdx = s.ambigIdx := rfl
@[simp] theorem State.setRx_tx (r : RxEngine) : (s.setRx r).tx = s.tx := rfl
@[simp] theorem State.setRx_rx (r : RxEngine) : (s.setRx r).rx = r := rfl
@[simp] theorem State.setRx_rxq (r : RxEngine) : (s.setRx r).rxq = s.rxq := rfl
@[simp] theorem State.setRx_env (r : RxEngine) : (s.setRx r).env = s.env := rfl

@[simp] theorem State.setRxq_regs (q : List Byte) : (s.setRxq q).regs = s.regs := rfl
@[simp] theorem State.setRxq_sticky (q : List Byte) : (s.setRxq q).sticky = s.sticky := rfl
@[simp] theorem State.setRxq_ambigIdx (q : List Byte) : (s.setRxq q).ambigIdx = s.ambigIdx := rfl
@[simp] theorem State.setRxq_tx (q : List Byte) : (s.setRxq q).tx = s.tx := rfl
@[simp] theorem State.setRxq_rx (q : List Byte) : (s.setRxq q).rx = s.rx := rfl
@[simp] theorem State.setRxq_rxq (q : List Byte) : (s.setRxq q).rxq = q := rfl
@[simp] theorem State.setRxq_env (q : List Byte) : (s.setRxq q).env = s.env := rfl

@[simp] theorem State.setEnv_regs (e : Env) : (s.setEnv e).regs = s.regs := rfl
@[simp] theorem State.setEnv_sticky (e : Env) : (s.setEnv e).sticky = s.sticky := rfl
@[simp] theorem State.setEnv_ambigIdx (e : Env) : (s.setEnv e).ambigIdx = s.ambigIdx := rfl
@[simp] theorem State.setEnv_tx (e : Env) : (s.setEnv e).tx = s.tx := rfl
@[simp] theorem State.setEnv_rx (e : Env) : (s.setEnv e).rx = s.rx := rfl
@[simp] theorem State.setEnv_rxq (e : Env) : (s.setEnv e).rxq = s.rxq := rfl
@[simp] theorem State.setEnv_env (e : Env) : (s.setEnv e).env = e := rfl

@[simp] theorem State.setPending_regs (es : List Event) : (s.setPending es).regs = s.regs := rfl
@[simp] theorem State.setPending_sticky (es : List Event) : (s.setPending es).sticky = s.sticky := rfl
@[simp] theorem State.setPending_ambigIdx (es : List Event) : (s.setPending es).ambigIdx = s.ambigIdx := rfl
@[simp] theorem State.setPending_tx (es : List Event) : (s.setPending es).tx = s.tx := rfl
@[simp] theorem State.setPending_rx (es : List Event) : (s.setPending es).rx = s.rx := rfl
@[simp] theorem State.setPending_rxq (es : List Event) : (s.setPending es).rxq = s.rxq := rfl
@[simp] theorem State.setPending_env_pending (es : List Event) : (s.setPending es).env.pending = es := rfl
@[simp] theorem State.setPending_env_emitted (es : List Event) : (s.setPending es).env.emitted = s.env.emitted := rfl
@[simp] theorem State.setPending_env_answers (es : List Event) : (s.setPending es).env.answers = s.env.answers := rfl

@[simp] theorem State.emit_regs (w : Word) : (s.emit w).regs = s.regs := rfl
@[simp] theorem State.emit_sticky (w : Word) : (s.emit w).sticky = s.sticky := rfl
@[simp] theorem State.emit_ambigIdx (w : Word) : (s.emit w).ambigIdx = s.ambigIdx := rfl
@[simp] theorem State.emit_tx (w : Word) : (s.emit w).tx = s.tx := rfl
@[simp] theorem State.emit_rx (w : Word) : (s.emit w).rx = s.rx := rfl
@[simp] theorem State.emit_rxq (w : Word) : (s.emit w).rxq = s.rxq := rfl
@[simp] theorem State.emit_env_pending (w : Word) : (s.emit w).env.pending = s.env.pending := rfl
@[simp] theorem State.emit_env_emitted (w : Word) : (s.emit w).env.emitted = s.env.emitted ++ [w] := rfl
@[simp] theorem State.emit_env_answers (w : Word) : (s.emit w).env.answers = s.env.answers := rfl

@[simp] theorem State.answer_regs (a : Answer) : (s.answer a).regs = s.regs := rfl
@[simp] theorem State.answer_sticky (a : Answer) : (s.answer a).sticky = s.sticky := rfl
@[simp] theorem State.answer_ambigIdx (a : Answer) : (s.answer a).ambigIdx = s.ambigIdx := rfl
@[simp] theorem State.answer_tx (a : Answer) : (s.answer a).tx = s.tx := rfl
@[simp] theorem State.answer_rx (a : Answer) : (s.answer a).rx = s.rx := rfl
@[simp] theorem State.answer_rxq (a : Answer) : (s.answer a).rxq = s.rxq := rfl
@[simp] theorem State.answer_env_pending (a : Answer) : (s.answer a).env.pending = s.env.pending := rfl
@[simp] theorem State.answer_env_emitted (a : Answer) : (s.answer a).env.emitted = s.env.emitted := rfl
@[simp] theorem State.answer_env_answers (a : Answer) : (s.answer a).env.answers = s.env.answers ++ [a] := rfl

@[simp] theorem State.setRegs_self : s.setRegs s.regs = s := rfl
@[simp] theorem State.setRegs_setRegs (r r' : Regs) : (s.setRegs r).setRegs r' = s.setRegs r' := rfl
@[simp] theorem State.setSticky_self : s.setSticky s.sticky = s := rfl
@[simp] theorem State.setSticky_setSticky (f f' : Sticky) : (s.setSticky f).setSticky f' = s.setSticky f' := rfl
@[simp] theorem State.setAmbigIdx_self : s.setAmbigIdx s.ambigIdx = s := rfl
@[simp] theorem State.setAmbigIdx_setAmbigIdx (w w' : Word) : (s.setAmbigIdx w).setAmbigIdx w' = s.setAmbigIdx w' := rfl
@[simp] theorem State.setTx_self : s.setTx s.tx = s := rfl
@[simp] theorem State.setTx_setTx (t t' : TxEngine) : (s.setTx t).setTx t' = s.setTx t' := rfl
@[simp] theorem State.setRx_self : s.setRx s.rx = s := rfl
@[simp] theorem State.setRx_setRx (r r' : RxEngine) : (s.setRx r).setRx r' = s.setRx r' := rfl
@[simp] theorem State.setRxq_self : s.setRxq s.rxq = s := rfl
@[simp] theorem State.setRxq_setRxq (q q' : List Byte) : (s.setRxq q).setRxq q' = s.setRxq q' := rfl
@[simp] theorem State.setEnv_self : s.setEnv s.env = s := rfl
@[simp] theorem State.setEnv_setEnv (e e' : Env) : (s.setEnv e).setEnv e' = s.setEnv e' := rfl
@[simp] theorem State.setPending_self : s.setPending s.env.pending = s := rfl

/-- Two states with the same fields are the same state. -/
@[ext] theorem State.ext_fields {s t : State} (regs : s.regs = t.regs) (sticky : s.sticky = t.sticky)
    (ambigIdx : s.ambigIdx = t.ambigIdx) (tx : s.tx = t.tx) (rx : s.rx = t.rx) (rxq : s.rxq = t.rxq)
    (env : s.env = t.env) : s = t := by
  cases s; cases t; simp_all

end Sys2Proof.Machine
end

