-- ==== Sys2Proof/Laws/Flags.lean ====
section
/-! SUPPORT. What the flag computations do, said once: the sticky set, the bits of INT_STAT, the codes. -/

namespace Sys2Proof.Machine

@[simp] theorem Sticky.has_set (f : Sticky) (c d : Cause) : (f.set c).has d = (f.has d || decide (c = d)) := by
  cases c <;> cases d <;> simp [Sticky.set, Sticky.has]

@[simp] theorem Sticky.has_clear (f : Sticky) (v : Word) (c : Cause) :
    (f.clear v).has c = (f.has c && !v.getLsbD c.code) := by
  cases c <;> rfl

@[simp] theorem Sticky.has_empty (c : Cause) : Sticky.empty.has c = false := by
  cases c <;> rfl

/-- A sticky set is known by its bits. -/
theorem Sticky.eq_of_has {f g : Sticky} (h : ∀ c, f.has c = g.has c) : f = g := by
  have e0 := h .txDone
  have e3 := h .rxStart
  have e4 := h .ambig
  have e5 := h .rxOvf
  have e6 := h .txOvf
  have e7 := h .trunc
  have e8 := h .cfgErr
  have e9 := h .badCmd
  cases f; cases g; simp_all [Sticky.has]

theorem Cause.code_injective {c d : Cause} (h : c.code = d.code) : c = d := by
  cases c <;> cases d <;> simp_all [Cause.code]

theorem Cause.code_lt (c : Cause) : c.code < 10 := by
  cases c <;> decide

/-- No sticky bit stands at a level's position. -/
theorem Cause.code_not_level (c : Cause) : c.code ≠ 1 ∧ c.code ≠ 2 := by
  cases c <;> decide

/-- Each bit of a word made from a list of bits. -/
@[simp] theorem getLsbD_bitsWord (bits : List Bool) (i : Nat) :
    (bitsWord bits).getLsbD i = (decide (i < 32) && bits.getD i false) := by
  simp [bitsWord, BitVec.getLsbD_ofBoolListLE]

/-- INT_STAT shows each sticky bit at its cause's code (R126). -/
theorem intStat_sticky (s : State) (c : Cause) : (intStat s).getLsbD c.code = s.sticky.has c := by
  unfold intStat
  rw [getLsbD_bitsWord]
  cases c <;> simp [Cause.code, Sticky.has]

theorem intStat_txRdy (s : State) : (intStat s).getLsbD 1 = txRdy s := by
  unfold intStat
  rw [getLsbD_bitsWord]
  simp

theorem intStat_rxAvl (s : State) : (intStat s).getLsbD 2 = rxAvl s := by
  unfold intStat
  rw [getLsbD_bitsWord]
  simp

/-- Bits 31:10 of INT_STAT read 0 (R30). -/
theorem intStat_high (s : State) {i : Nat} (h : 10 ≤ i) : (intStat s).getLsbD i = false := by
  unfold intStat
  rw [getLsbD_bitsWord, List.getD_eq_default _ _ (by simpa using h), Bool.and_false]

/-- INT_STAT depends on the sticky set, the pending frame and the FIFO only. -/
theorem intStat_congr {s t : State} (h1 : s.sticky = t.sticky) (h2 : s.tx.pending = t.tx.pending)
    (h3 : s.rxq = t.rxq) : intStat s = intStat t := by
  simp [intStat, txRdy, rxAvl, h1, h2, h3]

/-- STATUS depends on the engines' states and the FIFO's length only. -/
theorem status_congr {s t : State} (h1 : s.tx.active.isSome = t.tx.active.isSome)
    (h2 : s.tx.pending.isSome = t.tx.pending.isSome) (h3 : s.rx.state = t.rx.state)
    (h4 : s.rxq.length = t.rxq.length) : status s = status t := by
  simp [status, h1, h2, h3, h4]

@[simp] theorem bitsValue_nil : bitsValue [] = 0 := rfl

@[simp] theorem bitsValue_append_singleton (bits : List Bool) (x : Bool) :
    bitsValue (bits ++ [x]) = 2 * bitsValue bits + x.toNat := by
  simp [bitsValue]

/-- `c` bits are worth less than `2^c`. -/
theorem bitsValue_lt (bits : List Bool) : bitsValue bits < 2 ^ bits.length := by
  induction bits using List.reverseRecOn with
  | nil => simp
  | append_singleton xs x ih =>
    have : x.toNat ≤ 1 := Bool.toNat_le x
    simp only [bitsValue_append_singleton, List.length_append, List.length_singleton, Nat.pow_succ]
    omega

end Sys2Proof.Machine
end

