-- ==== Sys2Proof/Laws/Ops.lean ====
section
/-! SUPPORT. For each shared operation, what it can do, said once. -/

namespace Sys2Proof.Machine

variable (s : State)

/-! Raising and acknowledging write the sticky set only. -/

@[simp] theorem raise_regs (c : Cause) : (raise c s).regs = s.regs := rfl
@[simp] theorem raise_sticky (c : Cause) : (raise c s).sticky = s.sticky.set c := rfl
@[simp] theorem raise_ambigIdx (c : Cause) : (raise c s).ambigIdx = s.ambigIdx := rfl
@[simp] theorem raise_tx (c : Cause) : (raise c s).tx = s.tx := rfl
@[simp] theorem raise_rx (c : Cause) : (raise c s).rx = s.rx := rfl
@[simp] theorem raise_rxq (c : Cause) : (raise c s).rxq = s.rxq := rfl
@[simp] theorem raise_env (c : Cause) : (raise c s).env = s.env := rfl

@[simp] theorem acknowledge_regs (v : Word) : (acknowledge v s).regs = s.regs := rfl
@[simp] theorem acknowledge_sticky (v : Word) : (acknowledge v s).sticky = s.sticky.clear v := rfl
@[simp] theorem acknowledge_ambigIdx (v : Word) : (acknowledge v s).ambigIdx = s.ambigIdx := rfl
@[simp] theorem acknowledge_tx (v : Word) : (acknowledge v s).tx = s.tx := rfl
@[simp] theorem acknowledge_rx (v : Word) : (acknowledge v s).rx = s.rx := rfl
@[simp] theorem acknowledge_rxq (v : Word) : (acknowledge v s).rxq = s.rxq := rfl
@[simp] theorem acknowledge_env (v : Word) : (acknowledge v s).env = s.env := rfl

/-- A pushed byte is queued, or lost with RXOVF (R116). -/
theorem fifoPush_cases (b : Byte) :
    (s.rxq.length < Config.rxqDepth ∧ fifoPush b s = s.setRxq (s.rxq ++ [b])) ∨
    (Config.rxqDepth ≤ s.rxq.length ∧ fifoPush b s = raise .rxOvf s) := by
  unfold fifoPush
  split
  · exact .inl ⟨‹_›, rfl⟩
  · exact .inr ⟨by omega, rfl⟩

/-- The receive engine after an appended bit (R114, R115): the accumulator grows, or is emptied at 8. -/
def RxEngine.appended (r : RxEngine) (x : Bool) : RxEngine :=
  { r with acc := if r.acc.length + 1 = 8 then [] else r.acc ++ [x], last := some x }

/-- What appending a bit can do (R114, R115, R116): the accumulator grows; or the eighth bit flushes a
byte into the FIFO; or that byte is lost with RXOVF. -/
theorem appendBit_cases (x : Bool) :
    (s.rx.acc.length + 1 ≠ 8 ∧ appendBit x s = s.setRx (s.rx.appended x)) ∨
    (s.rx.acc.length + 1 = 8 ∧ s.rxq.length < Config.rxqDepth ∧
      appendBit x s = (s.setRx (s.rx.appended x)).setRxq
        (s.rxq ++ [BitVec.ofNat 8 (bitsValue (s.rx.acc ++ [x]))])) ∨
    (s.rx.acc.length + 1 = 8 ∧ Config.rxqDepth ≤ s.rxq.length ∧
      appendBit x s = raise .rxOvf (s.setRx (s.rx.appended x))) := by
  unfold appendBit
  simp only [State.setRx_rx, List.length_append, List.length_singleton]
  split
  · rename_i h
    have h8 : s.rx.acc.length + 1 = 8 := h
    right
    simp only [flush, State.setRx_rx, State.setRx_setRx]
    rcases fifoPush_cases (s.setRx { s.rx with acc := [], last := some x })
      (BitVec.ofNat 8 (bitsValue (s.rx.acc ++ [x]))) with ⟨hl, he⟩ | ⟨hl, he⟩
    · exact .inl ⟨h8, hl, by rw [he]; simp [RxEngine.appended, h8]⟩
    · exact .inr ⟨h8, hl, by rw [he]; simp [RxEngine.appended, h8]⟩
  · rename_i h
    have h8 : s.rx.acc.length + 1 ≠ 8 := h
    exact .inl ⟨h8, by simp [RxEngine.appended, h8]⟩

/-! Appending a bit leaves the configuration, AMBIG_IDX, the transmitter and the agents alone. -/

@[simp] theorem appendBit_regs (x : Bool) : (appendBit x s).regs = s.regs := by
  rcases appendBit_cases s x with ⟨_, h⟩ | ⟨_, _, h⟩ | ⟨_, _, h⟩ <;> simp [h]

@[simp] theorem appendBit_ambigIdx (x : Bool) : (appendBit x s).ambigIdx = s.ambigIdx := by
  rcases appendBit_cases s x with ⟨_, h⟩ | ⟨_, _, h⟩ | ⟨_, _, h⟩ <;> simp [h]

@[simp] theorem appendBit_tx (x : Bool) : (appendBit x s).tx = s.tx := by
  rcases appendBit_cases s x with ⟨_, h⟩ | ⟨_, _, h⟩ | ⟨_, _, h⟩ <;> simp [h]

@[simp] theorem appendBit_rx (x : Bool) : (appendBit x s).rx = s.rx.appended x := by
  rcases appendBit_cases s x with ⟨_, h⟩ | ⟨_, _, h⟩ | ⟨_, _, h⟩ <;> simp [h]

@[simp] theorem appendBit_env (x : Bool) : (appendBit x s).env = s.env := by
  rcases appendBit_cases s x with ⟨_, h⟩ | ⟨_, _, h⟩ | ⟨_, _, h⟩ <;> simp [h]

@[simp] theorem RxEngine.appended_state (r : RxEngine) (x : Bool) : (r.appended x).state = r.state := rfl
@[simp] theorem RxEngine.appended_p (r : RxEngine) (x : Bool) : (r.appended x).p = r.p := rfl
@[simp] theorem RxEngine.appended_m (r : RxEngine) (x : Bool) : (r.appended x).m = r.m := rfl
@[simp] theorem RxEngine.appended_k (r : RxEngine) (x : Bool) : (r.appended x).k = r.k := rfl
@[simp] theorem RxEngine.appended_last (r : RxEngine) (x : Bool) : (r.appended x).last = some x := rfl

/-- The state after AMBIG is raised (R111): the bit, and the index if the bit was clear. -/
theorem raiseAmbig_eq (m : Nat) :
    raiseAmbig m s = (s.setSticky (s.sticky.set .ambig)).setAmbigIdx
      (if s.sticky.ambig then s.ambigIdx else BitVec.ofNat 32 m) := by
  unfold raiseAmbig raise
  split <;> simp [State.setSticky, State.setAmbigIdx]

@[simp] theorem raiseAmbig_regs (m : Nat) : (raiseAmbig m s).regs = s.regs := by simp [raiseAmbig_eq]
@[simp] theorem raiseAmbig_sticky (m : Nat) : (raiseAmbig m s).sticky = s.sticky.set .ambig := by
  simp [raiseAmbig_eq]
@[simp] theorem raiseAmbig_tx (m : Nat) : (raiseAmbig m s).tx = s.tx := by simp [raiseAmbig_eq]
@[simp] theorem raiseAmbig_rx (m : Nat) : (raiseAmbig m s).rx = s.rx := by simp [raiseAmbig_eq]
@[simp] theorem raiseAmbig_rxq (m : Nat) : (raiseAmbig m s).rxq = s.rxq := by simp [raiseAmbig_eq]
@[simp] theorem raiseAmbig_env (m : Nat) : (raiseAmbig m s).env = s.env := by simp [raiseAmbig_eq]

/-- What one slot decision can do (R108 to R113): classify and append; or, in the dead zone, raise AMBIG
and append nothing; or, with hold and a last bit, raise AMBIG and append that bit. -/
theorem decideSlot_cases (v : Int) (m : Nat) :
    (inDeadZone s.rx.p v = false ∧ decideSlot v m s = appendBit (slice s.rx.p v) s) ∨
    (inDeadZone s.rx.p v = true ∧ (s.rx.p.dzMode ≠ .hold ∨ s.rx.last = none) ∧
      decideSlot v m s = raiseAmbig m s) ∨
    (∃ x, inDeadZone s.rx.p v = true ∧ s.rx.p.dzMode = .hold ∧ s.rx.last = some x ∧
      decideSlot v m s = appendBit x (raiseAmbig m s)) := by
  unfold decideSlot
  split
  · rename_i hz
    right
    simp only [deadZone, raiseAmbig_rx]
    rcases hm : s.rx.p.dzMode <;> rcases hl : s.rx.last <;> simp [hz]
  · rename_i hz
    exact .inl ⟨by simpa using hz, rfl⟩

@[simp] theorem decideSlot_regs (v : Int) (m : Nat) : (decideSlot v m s).regs = s.regs := by
  rcases decideSlot_cases s v m with ⟨_, h⟩ | ⟨_, _, h⟩ | ⟨x, _, _, _, h⟩ <;> simp [h]

@[simp] theorem decideSlot_tx (v : Int) (m : Nat) : (decideSlot v m s).tx = s.tx := by
  rcases decideSlot_cases s v m with ⟨_, h⟩ | ⟨_, _, h⟩ | ⟨x, _, _, _, h⟩ <;> simp [h]

@[simp] theorem decideSlot_env (v : Int) (m : Nat) : (decideSlot v m s).env = s.env := by
  rcases decideSlot_cases s v m with ⟨_, h⟩ | ⟨_, _, h⟩ | ⟨x, _, _, _, h⟩ <;> simp [h]

/-- A decision moves the accumulator and the last bit of the receive engine, or leaves it. -/
theorem decideSlot_rx (v : Int) (m : Nat) :
    (decideSlot v m s).rx = s.rx ∨ ∃ x, (decideSlot v m s).rx = s.rx.appended x := by
  rcases decideSlot_cases s v m with ⟨_, h⟩ | ⟨_, _, h⟩ | ⟨x, _, _, _, h⟩
  · exact .inr ⟨slice s.rx.p v, by simp [h]⟩
  · exact .inl (by simp [h])
  · exact .inr ⟨x, by simp [h]⟩

/-- What one sample in RUN does (R100): a decision and the next decision index if it is a decision point;
in every case the next input index. -/
theorem runSample_cases (v : Int) :
    (s.rx.m = sched s.rx.p s.rx.k ∧
      runSample v s = (decideSlot v s.rx.m s).setRx { (decideSlot v s.rx.m s).rx with
        k := (decideSlot v s.rx.m s).rx.k + 1, m := (decideSlot v s.rx.m s).rx.m + 1 }) ∨
    (s.rx.m ≠ sched s.rx.p s.rx.k ∧ runSample v s = s.setRx { s.rx with m := s.rx.m + 1 }) := by
  unfold runSample
  split
  · exact .inl ⟨‹_›, rfl⟩
  · exact .inr ⟨‹_›, rfl⟩

/-- What a PUSH does, by the receive state (R100, R101, R102). -/
theorem push_cases (w : Word) :
    (s.rx.state = .idle ∧ push w s = s) ∨
    (s.rx.state = .armed ∧ push w s = runSample w.toInt (leaveArmed s)) ∨
    (s.rx.state = .run ∧ push w s = runSample w.toInt s) := by
  unfold push
  rcases h : s.rx.state <;> simp

@[simp] theorem leaveArmed_regs : (leaveArmed s).regs = s.regs := rfl
@[simp] theorem leaveArmed_tx : (leaveArmed s).tx = s.tx := rfl
@[simp] theorem leaveArmed_rx : (leaveArmed s).rx = { s.rx with state := .run } := rfl
@[simp] theorem leaveArmed_rxq : (leaveArmed s).rxq = s.rxq := rfl
@[simp] theorem leaveArmed_env : (leaveArmed s).env = s.env := rfl
@[simp] theorem leaveArmed_ambigIdx : (leaveArmed s).ambigIdx = s.ambigIdx := rfl
@[simp] theorem leaveArmed_sticky : (leaveArmed s).sticky = s.sticky.set .rxStart := rfl

@[simp] theorem runSample_regs (v : Int) : (runSample v s).regs = s.regs := by
  rcases runSample_cases s v with ⟨_, h⟩ | ⟨_, h⟩ <;> simp [h]

@[simp] theorem runSample_tx (v : Int) : (runSample v s).tx = s.tx := by
  rcases runSample_cases s v with ⟨_, h⟩ | ⟨_, h⟩ <;> simp [h]

@[simp] theorem runSample_env (v : Int) : (runSample v s).env = s.env := by
  rcases runSample_cases s v with ⟨_, h⟩ | ⟨_, h⟩ <;> simp [h]

/-- The end of a frame (R90): TXDONE, and the pending frame starts or the engine is idle. -/
theorem frameEnd_cases :
    (s.tx.pending = none ∧ frameEnd s = (raise .txDone s).setTx ⟨none, none⟩) ∨
    (∃ f, s.tx.pending = some f ∧ frameEnd s = (raise .txDone s).setTx ⟨some ⟨f.b, f.p, 0⟩, none⟩) := by
  unfold frameEnd
  rcases h : s.tx.pending with _ | f
  · exact .inl ⟨rfl, by simp [h]⟩
  · exact .inr ⟨f, rfl, by simp [h]⟩

/-- What a PULL does (R89, R90, R91). -/
theorem pull_cases :
    (s.tx.active = none ∧ pull s = s) ∨
    (∃ f, s.tx.active = some f ∧ f.n + 1 ≠ f.p.N.toNat ∧
      pull s = (s.emit (sampleWord f.b f.p f.n)).setTx { s.tx with active := some { f with n := f.n + 1 } }) ∨
    (∃ f, s.tx.active = some f ∧ f.n + 1 = f.p.N.toNat ∧
      pull s = frameEnd (s.emit (sampleWord f.b f.p f.n))) := by
  unfold pull
  rcases h : s.tx.active with _ | f
  · exact .inl ⟨rfl, by simp⟩
  · right
    by_cases hn : f.n + 1 = f.p.N.toNat
    · exact .inr ⟨f, rfl, hn, by simp [hn]⟩
    · exact .inl ⟨f, rfl, hn, by simp [hn]⟩

@[simp] theorem hardwareReset_env : (hardwareReset s).env = s.env := rfl

/-- `andThen` of an outcome that is a next state. -/
@[simp] theorem andThen_next (t : State) (f : State → State) : andThen (.next t) f = .next (f t) := rfl

end Sys2Proof.Machine
end

