-- ==== Sys2Proof/Laws/Bus.lean ====
section
/-! SUPPORT. The register map and the bus: which transactions reach a register, and what one does. -/

namespace Sys2Proof.Machine

theorem Reg.mem_all (r : Reg) : r ∈ Reg.all := by
  cases r <;> decide

theorem Reg.offset_injective {r q : Reg} (h : r.offset = q.offset) : r = q := by
  cases r <;> cases q <;> simp_all [Reg.offset]

theorem Reg.offset_aligned (r : Reg) : r.offset % 4 = 0 := by
  cases r <;> decide

theorem Reg.offset_lt (r : Reg) : r.offset < Config.windowBytes := by
  cases r <;> decide

/-- The map has a register exactly at its offset (R17). -/
theorem Reg.atOffset_eq_some {off : Nat} {r : Reg} : Reg.atOffset off = some r ↔ r.offset = off := by
  constructor
  · intro h
    have := List.find?_some h
    simpa using this
  · rintro rfl
    cases r <;> rfl

/-- A transaction reaches a register exactly when it is a whole word at the register's offset (R45). -/
theorem target_eq_some {off size : Nat} {r : Reg} :
    target off size = some r ↔ size = 4 ∧ r.offset = off := by
  unfold target
  split
  · rw [Reg.atOffset_eq_some]; exact ⟨fun h => ⟨‹_ ∧ _›.1, h⟩, fun h => h.2⟩
  · rename_i h
    refine ⟨by simp, fun ⟨h4, ho⟩ => absurd ⟨h4, ?_⟩ h⟩
    rw [← ho]; exact r.offset_aligned

@[simp] theorem target_offset (r : Reg) : target r.offset 4 = some r := target_eq_some.2 ⟨rfl, rfl⟩

/-- A READ of a mapped word (R46, R51). -/
theorem bus_read (r : Reg) (s : State) :
    bus (.read r.offset 4) s = .next ((readEffect r s).answer (.ok (readView r s))) := by
  simp [bus]

/-- A WRITE of a mapped word (R47 to R50). -/
theorem bus_write (r : Reg) (v : Word) (s : State) :
    bus (.write r.offset 4 v) s = andThen (writeEffect r v s) fun t => t.answer (.ok 0) := by
  simp [bus]

/-- A READ that reaches no register is answered ERR (R45). -/
theorem bus_read_err {off size : Nat} (h : target off size = none) (s : State) :
    bus (.read off size) s = .next (s.answer .err) := by
  simp [bus, h]

/-- A WRITE that reaches no register is answered ERR (R45). -/
theorem bus_write_err {off size : Nat} (v : Word) (h : target off size = none) (s : State) :
    bus (.write off size v) s = .next (s.answer .err) := by
  simp [bus, h]

@[simp] theorem perform_bus (t : Transaction) (s : State) : perform (.bus t) s = bus t s := rfl
@[simp] theorem perform_pull (s : State) : perform .pull s = .next (pull s) := rfl
@[simp] theorem perform_push (w : Word) (s : State) : perform (.push w) s = .next (push w s) := rfl
@[simp] theorem perform_reset (s : State) : perform .reset s = .next (hardwareReset s) := rfl

/-- The step with nothing pending (R140). -/
theorem step_nil {s : State} (h : s.env.pending = []) : step s = .next s := by
  simp [step, performNext, h]

/-- The step with a pending event (R55). -/
theorem step_cons {s : State} {e : Event} {es : List Event} (h : s.env.pending = e :: es) :
    step s = perform e (s.setPending es) := by
  simp [step, performNext, h]

/-- What a write can do (R47 to R50), by the register's access kind. -/
theorem writeEffect_cases (r : Reg) (v : Word) (s : State) :
    (r.access = .rw ∧ writeEffect r v s = .next (s.setRegs (writeRegs r v s.regs))) ∨
    (r.access = .ro ∧ writeEffect r v s = .next s) ∨
    (r = .cmd ∧ writeEffect r v s = command v s) ∨
    (r = .intStat ∧ writeEffect r v s = .next (acknowledge v s)) := by
  cases r <;> simp [writeEffect, Reg.access]

end Sys2Proof.Machine
end

