-- ==== Sys2Proof/Laws/Encoding.lean ====
section
/-! SUPPORT. Packing and unpacking the fields of a command word (R65). -/

namespace Sys2Proof

@[simp] theorem FormatC.ofWord_toWord (f : FormatC) : FormatC.ofWord f.toWord = f := by
  obtain ⟨op, mbz, arg⟩ := f
  simp only [FormatC.ofWord, FormatC.toWord, FormatC.mk.injEq]
  refine ⟨?_, ?_, ?_⟩ <;>
    apply BitVec.eq_of_getLsbD_eq <;> intro i hi <;>
    simp only [BitVec.getLsbD_extractLsb', BitVec.getLsbD_append]
  · have h1 : ¬ 24 + i < 8 := by omega
    have h2 : ¬ 24 + i - 8 < 16 := by omega
    have h3 : 24 + i - 8 - 16 = i := by omega
    simp [hi, h1, h2, h3]
  · have h1 : ¬ 8 + i < 8 := by omega
    simp [hi, h1]
  · simp [hi]

@[simp] theorem FormatC.toWord_ofWord (v : Word) : (FormatC.ofWord v).toWord = v := by
  apply BitVec.eq_of_getLsbD_eq
  intro i hi
  simp only [FormatC.ofWord, FormatC.toWord, BitVec.getLsbD_append, BitVec.getLsbD_extractLsb']
  by_cases h1 : i < 8
  · simp [h1]
  · by_cases h2 : i - 8 < 16
    · have : 8 + (i - 8) = i := by omega
      simp [h1, h2, this]
    · have h3 : i - 8 - 16 < 8 := by omega
      have : 24 + (i - 8 - 16) = i := by omega
      simp [h1, h2, h3, this]

/-- The fields of a command's word are the command's fields. -/
@[simp] theorem ofWord_encode (i : Instr) : FormatC.ofWord (encode i) = i.fields := FormatC.ofWord_toWord _

end Sys2Proof
end

