-- ==== Sys2Proof/Laws/Operands.lean ====
section
/-! SUPPORT. The checks and comparisons as propositions, once each, and the fixed parameters as numbers. -/

namespace Sys2Proof

@[simp] theorem Config.rxqDepth_eq : Config.rxqDepth = 8 := rfl
@[simp] theorem Config.dataSlots_eq : Config.dataSlots = 8 := rfl
@[simp] theorem Config.idleSlots_eq : Config.idleSlots = 1 := rfl
@[simp] theorem Config.flushBits_eq : Config.flushBits = 8 := rfl

namespace Machine

/-- A nonzero word is a positive count. -/
theorem toNat_pos_of_ne_zero {n : Nat} {w : BitVec n} (h : w ≠ 0) : 0 < w.toNat := by
  rcases Nat.eq_zero_or_pos w.toNat with h0 | h0
  · exact absurd (BitVec.eq_of_toNat_eq (by simpa using h0)) h
  · exact h0

/-- TX_SEND's check, as R84 says it. -/
theorem txConfigOk_iff (p : TxParams) :
    txConfigOk p = true ↔ p.S ≠ 0 ∧ p.fs ≠ 0 ∧ p.N ≠ 0 ∧ p.aLow.toInt < p.aHigh.toInt := by
  simp only [txConfigOk, Bool.and_eq_true, bne_iff_ne, decide_eq_true_eq, and_assoc]

/-- TRUNC's condition, as R87 says it. -/
theorem tooShort_iff (p : TxParams) : tooShort p = true ↔ p.N.toNat < (p.P.toNat + 9) * p.S.toNat := by
  simp only [tooShort, decide_eq_true_eq, Config.dataSlots_eq, Config.idleSlots_eq]

/-- The schedule part of RX_START's check, as R95 says it. -/
theorem scheduleOk_iff (p : RxParams) :
    scheduleOk p = true ↔ p.sl ≠ 0 ∧ (p.fl = 0 ∨ p.off.toNat + (p.skip.toNat + 7) * p.sl.toNat < p.fl.toNat) := by
  simp only [scheduleOk, Bool.and_eq_true, bne_iff_ne, Bool.or_eq_true, beq_iff_eq, decide_eq_true_eq]

/-- RX_START's check, as R95 says it. -/
theorem rxConfigOk_iff (r : Regs) :
    rxConfigOk r = true ↔ r.rxSlotLen ≠ 0 ∧
      (r.rxFrameLen = 0 ∨ r.rxOffset.toNat + (r.rxSkip.toNat + 7) * r.rxSlotLen.toNat < r.rxFrameLen.toNat) ∧
      (r.ctrl.thrAuto = true → 2 ≤ r.aHigh.toInt - r.aLow.toInt) := by
  rw [rxConfigOk, Bool.and_eq_true, scheduleOk_iff, midpointOk]
  rcases h : r.ctrl.thrAuto <;> simp [latchRx, and_assoc]

/-- The dead zone, as R110 says it. -/
theorem inDeadZone_iff (p : RxParams) (v : Int) :
    inDeadZone p v = true ↔ p.dzMode ≠ .off ∧ p.dzLo.toInt < v ∧ v < p.dzHi.toInt := by
  simp only [inDeadZone, Bool.and_eq_true, decide_eq_true_eq, and_assoc]

/-- The slicer, as R109 says it. -/
theorem slice_iff (p : RxParams) (v : Int) :
    slice p v = true ↔ (p.inv = false ∧ p.T.toInt ≤ v) ∨ (p.inv = true ∧ v < p.T.toInt) := by
  unfold slice
  rcases p.inv <;> simp

/-- The frame function in a preamble slot (R79, R82). -/
theorem enc_preamble (b : Byte) (p : TxParams) {n : Nat} (h : slotOf p n < p.P.toNat) :
    enc b p n = car p n * preambleLevel p (slotOf p n) := by
  simp [enc, h]

/-- The frame function in a data slot (R80, R82). -/
theorem enc_data (b : Byte) (p : TxParams) {n i : Nat} (hi : i < 8) (h : slotOf p n = p.P.toNat + i) :
    enc b p n = car p n * bitLevel p (b.getLsbD (7 - i)) := by
  have h1 : ¬ p.P.toNat + i < p.P.toNat := by omega
  simp [enc, h, hi]

/-- The frame function after the last data slot (R81, R82). -/
theorem enc_idle (b : Byte) (p : TxParams) {n : Nat} (h : p.P.toNat + 8 ≤ slotOf p n) :
    enc b p n = p.aLow.toInt := by
  have h1 : ¬ slotOf p n < p.P.toNat := by omega
  have h2 : ¬ slotOf p n < p.P.toNat + 8 := by omega
  simp [enc, h1, h2]

end Machine

end Sys2Proof
end

