-- ==== Sys2Proof/Laws/PerInstr.lean ====
section
/-! SUPPORT. A family of facts made per command: its encoding's fields pass the checks of format C. -/

namespace Sys2Proof.Laws.EncodedFields

/-- The fields of the command's word are a command's (R65, R70), and its operand is one its encoding
admits (R67). -/
def Statement (i : Instr) : Prop :=
  (FormatC.ofWord (encode i)).wellFormed = true ∧ i.wellFormed = true

theorem nop : Statement .nop := by unfold Statement; decide

theorem txSend (b : Byte) : Statement (.txSend b) := by
  refine ⟨by rw [ofWord_encode]; rfl, ?_⟩
  have := b.isLt
  simp only [Instr.wellFormed, decide_eq_true_eq]
  omega

theorem txAbort : Statement .txAbort := by unfold Statement; decide

theorem rxStart : Statement .rxStart := by unfold Statement; decide

theorem rxStop : Statement .rxStop := by unfold Statement; decide

theorem rxFifoClear : Statement .rxFifoClear := by unfold Statement; decide

theorem softReset : Statement .softReset := by unfold Statement; decide

end Sys2Proof.Laws.EncodedFields
end

