-- ==== Sys2Proof/Laws/Waveform.lean ====
section
/-! SUPPORT. The carrier, the frame function and the schedule: their cases. -/

namespace Sys2Proof.Machine

/-- The carrier is -1, 0 or +1 (R75). -/
theorem car_values (p : TxParams) (n : Nat) : car p n = -1 ∨ car p n = 0 ∨ car p n = 1 := by
  unfold car
  simp only
  split_ifs <;> simp

/-- The phase is below the denominator. -/
theorem phase_lt {p : TxParams} (h : 0 < p.fs.toNat) (n : Nat) : phase p n < p.fs.toNat := Nat.mod_lt _ h

theorem phaseAccumulator_succ (p : TxParams) (n : Nat) :
    phaseAccumulator p (n + 1) = (phaseAccumulator p n + p.fc.toNat % p.fs.toNat) % p.fs.toNat := rfl

theorem sched_unframed {p : RxParams} (h : p.fl = 0) (k : Nat) :
    sched p k = p.off.toNat + (p.skip.toNat + k) * p.sl.toNat := by
  simp [sched, h]

theorem sched_framed {p : RxParams} (h : p.fl ≠ 0) (k : Nat) :
    sched p k = (k / 8) * p.fl.toNat + p.off.toNat + (p.skip.toNat + k % 8) * p.sl.toNat := by
  rw [sched, if_neg h]

/-- A 16-bit level lies in the signed 16-bit range. -/
theorem level_bounds (l : Level) : -32768 ≤ l.toInt ∧ l.toInt ≤ 32767 := by
  have h1 := BitVec.le_toInt l
  have h2 := BitVec.toInt_lt (x := l)
  constructor
  · simpa using h1
  · have : l.toInt < 32768 := by simpa using h2
    omega

end Sys2Proof.Machine
end

