-- ==== Sys2Proof/Tests/Slice0.lean ====
section
/-! SUPPORT. Checks of the model: words and values taken from spec/95_test_vectors.md and from the examples
inside the rules, one step each; and, for each statement with hypotheses, a state that meets them. -/

namespace Sys2Proof.Tests

open Sys2Proof.Machine

/-! ## The checks of format C refuse ill-formed fields (R65, R70) -/

theorem test_wf_mbz_refused : FormatC.wellFormed ⟨0x01, 0x0001, 0x48⟩ = false := by decide
theorem test_wf_arg_refused : FormatC.wellFormed ⟨0x02, 0, 0x01⟩ = false := by decide
theorem test_wf_op_refused : FormatC.wellFormed ⟨0x07, 0, 0⟩ = false := by decide
theorem test_wf_accepts : FormatC.wellFormed ⟨0x01, 0, 0x48⟩ = true ∧ FormatC.wellFormed ⟨0x06, 0, 0⟩ = true := by
  decide

/-! ## Words written out from the spec's encodings (R68, 95_test_vectors.md CMD-1) -/

theorem test_decode_nop : decode 0b00000000000000000000000000000000#32 = .command .nop := by decide
theorem test_decode_txSend : decode 0b00000001000000000000000001001000#32 = .command (.txSend 0x48) := by decide
theorem test_decode_txAbort : decode 0b00000010000000000000000000000000#32 = .command .txAbort := by decide
theorem test_decode_rxStart : decode 0b00000011000000000000000000000000#32 = .command .rxStart := by decide
theorem test_decode_rxStop : decode 0b00000100000000000000000000000000#32 = .command .rxStop := by decide
theorem test_decode_rxFifoClear : decode 0b00000101000000000000000000000000#32 = .command .rxFifoClear := by decide
theorem test_decode_softReset : decode 0b00000110000000000000000000000000#32 = .command .softReset := by decide
theorem test_decode_invalid :
    decode 0x00000001#32 = .invalid .argNonzero ∧ decode 0x00000100#32 = .invalid .mbzNonzero ∧
    decode 0x07000000#32 = .invalid .reservedOp ∧ decode 0x01FF0000#32 = .invalid .mbzNonzero := by decide
theorem test_encode_txSend : encode (.txSend 0x69) = 0x01000069#32 := by decide
theorem test_decodeTableWord :
    decodeTableWord 32 0x010000FF = some (.txSend 0xFF) ∧ decodeTableWord 32 0x02000001 = none := by decide

/-! ## Small states -/

/-- The state after one event from `s`. -/
def after (e : Event) (s : State) : State :=
  match perform e s with
  | .next t => t
  | .fault _ => s
  | .refused _ => s

/-- The host's write of `v` to a register. -/
def wr (r : Reg) (v : Word) : Event := .bus (.write r.offset 4 v)

/-- TXA's registers (95_test_vectors.md, common parameter sets), with a choice of TX_LEN. -/
def txaRegs (len : Word) : Regs :=
  { Regs.reset with
    aLow := 1400, aHigh := 1600, carNum := 1000, carDen := 20000, txLen := len, slotLen := 600, preLen := 2 }

/-- TXA's snapshot. -/
def txa : TxParams := latchTx (txaRegs 6600)

/-- TXA programmed, nothing sent. -/
def txReady : State := State.reset.setRegs (txaRegs 6600)

/-- TXA with a frame of 0x48 active at sample `n`, and a choice of pending frame. -/
def sending (n : Nat) (q : Option PendingFrame) : State := txReady.setTx ⟨some ⟨0x48, txa, n⟩, q⟩

/-- RXA's registers (95_test_vectors.md), with a choice of RX_FRAME_LEN and of the levels. -/
def rxaRegs (fl : Word) (lo hi : Level) : Regs :=
  { Regs.reset with
    ctrl := ⟨false, true, .off, false⟩, aLow := lo, aHigh := hi
    rxSlotLen := 600, rxOffset := 305, rxSkip := 2, rxFrameLen := fl }

/-- RX1's latched parameters (95_test_vectors.md): every sample is a decision against 1500; dead zone
1450 to 1550. -/
def rx1 (mode : DzMode) (inv : Bool) : RxParams := ⟨1, 0, 0, 0, 1500, mode, 1450, 1550, inv⟩

/-- A session with RX1 in RUN that has taken `m` samples. -/
def running (mode : DzMode) (inv : Bool) (m : Nat) (acc : List Bool) (last : Option Bool) (q : List Byte) : State :=
  { State.reset with rx := ⟨.run, rx1 mode inv, m, m, acc, last⟩, rxq := q }

/-! ## One step of each operation -/

-- CMD-1: 0x00000000 leaves INT_STAT 2; 0x00000001 raises BADCMD.
theorem test_nop : readView .intStat (after (wr .cmd 0x00000000) State.reset) = 0x002 := by decide
theorem test_badCmd : readView .intStat (after (wr .cmd 0x00000001) State.reset) = 0x202 := by decide

-- TX-3: TXA accepted; TX_LEN = 6599 raises TRUNC.
theorem test_txSend : readView .status (after (wr .cmd 0x01000048) txReady) = 0x001 := by decide
theorem test_txSend_trunc :
    readView .intStat (after (wr .cmd 0x01000048) (State.reset.setRegs (txaRegs 6599))) = 0x082 := by decide

-- TX-4: TX_ABORT after 100 PULLs.
theorem test_txAbort :
    readView .status (after (wr .cmd 0x02000000) (sending 100 none)) = 0 ∧
    readView .intStat (after (wr .cmd 0x02000000) (sending 100 none)) = 2 := by decide

-- RX-5: -3 / 0 gives -2; difference 1 is refused.
theorem test_rxStart :
    readView .rxThrEff (after (wr .cmd 0x03000000) (State.reset.setRegs (rxaRegs 6600 (-3) 0))) = 0xFFFFFFFE := by
  decide
theorem test_rxStart_refused :
    readView .intStat (after (wr .cmd 0x03000000) (State.reset.setRegs (rxaRegs 6600 5 6))) = 0x102 := by decide

-- RX-9: RX_STOP keeps three bits 101.
theorem test_rxStop :
    readView .rxAcc (after (wr .cmd 0x04000000) (running .off false 3 [true, false, true] (some true) [])) =
      0x3305 := by decide

-- R99's example: two bytes queued.
theorem test_rxFifoClear :
    readView .status (after (wr .cmd 0x05000000) (running .off false 0 [] none [0x48, 0x69])) = 0x008 := by decide

-- TX-4: SOFT_RESET keeps IRQ_EN = 0x3FF, so TXRDY drives IRQ; TX_POS reads 0.
theorem test_softReset :
    irq (after (wr .cmd 0x06000000) ((sending 10 none).setRegs { (sending 10 none).regs with irqEn := 0x3FF })) =
      true := by decide
theorem test_softReset_txPos : readView .txPos (after (wr .cmd 0x06000000) (sending 10 none)) = 0 := by decide

-- TX-1: the samples 605, 615 and 1805 of TXA; TX-4: the last sample starts the pending frame.
theorem test_samples :
    sampleWord 0x48 txa 605 = 0x00000640 ∧ sampleWord 0x48 txa 615 = 0xFFFFF9C0 ∧
    sampleWord 0x48 txa 1805 = 0x00000578 ∧ sampleWord 0x48 txa 6000 = 0x00000578 := by decide
theorem test_pull_last :
    (after .pull (sending 6599 (some ⟨0x69, txa⟩))).tx = ⟨some ⟨0x69, txa, 0⟩, none⟩ ∧
    readView .intStat (after .pull (sending 6599 (some ⟨0x69, txa⟩))) = 0x003 := by decide

-- R75's example, and CZ = 1.
theorem test_car :
    car txa 0 = 0 ∧ car txa 9 = 1 ∧ car txa 10 = 0 ∧ car txa 11 = -1 ∧ car { txa with cz := true } 0 = 1 ∧
    car { txa with cz := true } 10 = -1 := by decide

-- TX-2: the one value outside 16 bits.
theorem test_extreme_level :
    sampleWord 0xFF ⟨false, 0x8000, 0x7FFF, 1, 4, 40, 4, 0⟩ 3 = 0x00008000 := by decide

-- RX-6: RXA's schedule.
theorem test_sched :
    sched (latchRx (rxaRegs 6600 1400 1600)) 7 = 5705 ∧ sched (latchRx (rxaRegs 6600 1400 1600)) 8 = 8105 ∧
    sched (latchRx (rxaRegs 0 1400 1600)) 8 = 6305 := by decide

-- RX-1: the eighth bit of 1,1,0,0,0,1,0,1 flushes 0xC5.
theorem test_push_flush :
    (after (.push 1500)
      (running .off false 7 [true, true, false, false, false, true, false] (some false) [])).rxq = [0xC5] := by
  decide
-- RX-3: AMBIG_IDX keeps the first index.
theorem test_push_ambig :
    readView .ambigIdx (after (.push 1500) (running .drop false 1 [true] (some true) [])) = 1 ∧
    readView .ambigIdx (after (.push 1500)
      ((running .drop false 3 [true] (some true) []).setSticky { Sticky.empty with ambig := true })) = 0 := by
  decide

-- BUS-1.
theorem test_bus_err :
    (after (.bus (.read 0x18 4)) State.reset).env.answers = [.err] ∧
    (after (.bus (.write 0x02 4 1)) State.reset).env.answers = [.err] ∧
    (after (.bus (.read 0x00 8)) State.reset).env.answers = [.err] := by decide
theorem test_write_ctrl :
    readView .ctrl (after (wr .ctrl 0xFFFFFFFF) State.reset) = 0x13 ∧
    readView .aLow (after (wr .aLow 0x12348000) State.reset) = 0xFFFF8000 := by decide

/-! ## States that meet the hypotheses of the statements, clause by clause -/

/-- `s` with one event pending. -/
def next1 (e : Event) (s : State) : State := s.setPending [e]

theorem witness_encoding_hypotheses :
    decode 0x01000048#32 = .command (.txSend 0x48) ∧ decode 0x07000000#32 = .invalid .reservedOp ∧
    (next1 (.bus (.write 0x0C 4 0x07000000)) State.reset).env.pending = [.bus (.write 0x0C 4 0x07000000)] := by
  decide

theorem witness_StepRunsTheWrittenCommand :
    (next1 (.bus (.write 0x0C 4 0x02000000)) (sending 3 none)).env.pending = [.bus (.write 0x0C 4 0x02000000)] ∧
    decode 0x02000000#32 = .command .txAbort := by decide

theorem witness_IdleMachineDoesNothing : (sending 3 none).env.pending = [] := by decide

theorem witness_hardwareReset : (next1 .reset (sending 3 none)).env.pending = [.reset] := by decide

-- N exactly (P + 9) * S, and one less; with no frame active and with one active.
theorem witness_TxSendAccepted :
    ∀ s ∈ [txReady, State.reset.setRegs (txaRegs 6599), sending 0 none],
      s.regs.slotLen ≠ 0 ∧ s.regs.carDen ≠ 0 ∧ s.regs.txLen ≠ 0 ∧ s.regs.aLow.toInt < s.regs.aHigh.toInt ∧
      s.tx.pending = none := by decide

theorem witness_TxSendRefused :
    ({ txaRegs 6600 with slotLen := 0 }).slotLen = 0 ∧ ({ txaRegs 6600 with carDen := 0 }).carDen = 0 ∧
    (txaRegs 0).txLen = 0 ∧
    ¬ ({ txaRegs 6600 with aLow := 1600 }).aLow.toInt < ({ txaRegs 6600 with aLow := 1600 }).aHigh.toInt := by
  decide

theorem witness_TxSendDropped :
    (sending 5 (some ⟨0x69, txa⟩)).tx.pending = some ⟨0x69, txa⟩ ∧ txReady.regs.slotLen ≠ 0 ∧
    txReady.regs.carDen ≠ 0 ∧ txReady.regs.txLen ≠ 0 ∧
    txReady.regs.aLow.toInt < txReady.regs.aHigh.toInt := by decide

theorem witness_PullEmits :
    ∀ n ∈ [0, 6598, 6599], (next1 .pull (sending n none)).env.pending = [.pull] ∧
      (next1 .pull (sending n none)).tx.active = some ⟨0x48, txa, n⟩ := by decide

theorem witness_PullWithoutFrame :
    (next1 .pull txReady).env.pending = [.pull] ∧ (next1 .pull txReady).tx.active = none := by decide

theorem witness_FrameIsEmitted :
    (sending 0 none).tx.active = some ⟨0x48, txa, 0⟩ ∧ 6600 ≤ txa.N.toNat ∧ 0 < txa.N.toNat := by decide

theorem witness_PendingFrameFollows :
    (sending 0 (some ⟨0x69, txa⟩)).tx.active = some ⟨0x48, txa, 0⟩ ∧
    (sending 0 (some ⟨0x69, txa⟩)).tx.pending = some ⟨0x69, txa⟩ ∧ 0 < txa.N.toNat := by decide

theorem witness_Carrier :
    txa.fs ≠ 0 ∧ txa.cz = false ∧ ({ txa with cz := true }).cz = true ∧
    (txa.fc.toNat * 20) % txa.fs.toNat = 0 ∧ 2 * ((txa.fc.toNat * 10) % txa.fs.toNat) = txa.fs.toNat := by decide

-- The last preamble sample, the first and last of the data slots, the first idle sample.
theorem witness_FrameLayout :
    txa.S ≠ 0 ∧ (1 < txa.P.toNat ∧ 1 * txa.S.toNat ≤ 1199 ∧ 1199 < (1 + 1) * txa.S.toNat) ∧
    ((txa.P.toNat + 0) * txa.S.toNat ≤ 1200 ∧ 1200 < (txa.P.toNat + 0 + 1) * txa.S.toNat) ∧
    ((txa.P.toNat + 7) * txa.S.toNat ≤ 5999 ∧ 5999 < (txa.P.toNat + 7 + 1) * txa.S.toNat) ∧
    (txa.P.toNat + 8) * txa.S.toNat ≤ 6000 := by decide

-- RX-5: 5706 is the shortest frame, 0 is unframed, a difference of 2 is the least.
theorem witness_RxStartArms :
    ∀ r ∈ [rxaRegs 5706 1400 1600, rxaRegs 0 1400 1600, rxaRegs 6600 (-3) (-1),
        { rxaRegs 6600 6 5 with ctrl := ⟨false, false, .off, false⟩ }],
      r.rxSlotLen ≠ 0 ∧
      (r.rxFrameLen = 0 ∨ r.rxOffset.toNat + (r.rxSkip.toNat + 7) * r.rxSlotLen.toNat < r.rxFrameLen.toNat) ∧
      (r.ctrl.thrAuto = true → 2 ≤ r.aHigh.toInt - r.aLow.toInt) := by decide

theorem witness_RxStartRefused :
    ({ rxaRegs 6600 1400 1600 with rxSlotLen := 0 }).rxSlotLen = 0 ∧
    ((rxaRegs 5705 1400 1600).rxFrameLen ≠ 0 ∧
      (rxaRegs 5705 1400 1600).rxFrameLen.toNat ≤ (rxaRegs 5705 1400 1600).rxOffset.toNat +
        ((rxaRegs 5705 1400 1600).rxSkip.toNat + 7) * (rxaRegs 5705 1400 1600).rxSlotLen.toNat) ∧
    ((rxaRegs 6600 5 6).ctrl.thrAuto = true ∧
      (rxaRegs 6600 5 6).aHigh.toInt - (rxaRegs 6600 5 6).aLow.toInt < 2) := by decide

theorem witness_IdleReceiver :
    (next1 (.push 5) State.reset).env.pending = [.push 5] ∧ (next1 (.push 5) State.reset).rx.state = .idle := by
  decide

/-- A fresh session whose first decision is at sample 0 (RX1), or not (RXA). -/
def armed (p : RxParams) : State := { State.reset with rx := ⟨.armed, p, 0, 0, [], none⟩ }

theorem witness_FirstSample :
    ∀ s ∈ [armed (rx1 .off false), armed (latchRx (rxaRegs 6600 1400 1600))],
      (next1 (.push 5) s).env.pending = [.push 5] ∧ s.rx.state = .armed ∧ s.rx.m = 0 ∧ s.rx.k = 0 := by decide

-- The first sample in the dead zone at index 0: drop, hold with no bit, hold with a bit; AMBIG clear and set.
theorem witness_FirstSample_deadZone :
    ∀ c ∈ [(DzMode.drop, (1451#32), (none : Option Bool), false), (.hold, 1549#32, none, true),
      (.hold, 1500#32, some true, false)],
      let s : State := { armed (rx1 c.1 false) with
        rx := ⟨.armed, rx1 c.1 false, 0, 0, [], c.2.2.1⟩, sticky := { Sticky.empty with ambig := c.2.2.2 } }
      (next1 (.push c.2.1) s).env.pending = [.push c.2.1] ∧ s.rx.state = .armed ∧ s.rx.m = 0 ∧ s.rx.k = 0 ∧
      sched s.rx.p 0 = 0 ∧ s.rx.p.dzMode ≠ .off ∧ s.rx.p.dzLo.toInt < c.2.1.toInt ∧
      c.2.1.toInt < s.rx.p.dzHi.toInt ∧ s.rx.last = c.2.2.1 ∧ s.sticky.has .ambig = c.2.2.2 := by decide

theorem witness_FirstSample_both :
    sched (rx1 .off false) 0 = 0 ∧ sched (latchRx (rxaRegs 6600 1400 1600)) 0 ≠ 0 := by decide

theorem witness_SampleBetweenDecisions :
    let s : State := { State.reset with rx := ⟨.run, latchRx (rxaRegs 6600 1400 1600), 304, 0, [], none⟩ }
    (next1 (.push 5) s).env.pending = [.push 5] ∧ s.rx.state = .run ∧ s.rx.m ≠ sched s.rx.p s.rx.k := by decide

-- Both bounds of the dead zone, no dead zone; both polarities.
theorem witness_Decision :
    ∀ c ∈ [(DzMode.drop, (1450#32), false), (.hold, 1550#32, true), (.off, 1500#32, false)],
      let s := next1 (.push c.2.1) (running c.1 c.2.2 4 [true] (some true) [])
      s.env.pending = [.push c.2.1] ∧ s.rx.state = .run ∧ s.rx.m = sched s.rx.p s.rx.k ∧
      (s.rx.p.dzMode = .off ∨ c.2.1.toInt ≤ s.rx.p.dzLo.toInt ∨ s.rx.p.dzHi.toInt ≤ c.2.1.toInt) := by decide

-- Just inside each bound; drop, hold with a bit, hold with none.
theorem witness_DeadZone :
    ∀ c ∈ [(DzMode.drop, (1451#32), some true), (.hold, 1549#32, some false), (.hold, 1500#32, none)],
      let s := next1 (.push c.2.1) (running c.1 false 4 [] c.2.2 [])
      s.env.pending = [.push c.2.1] ∧ s.rx.state = .run ∧ s.rx.m = sched s.rx.p s.rx.k ∧
      s.rx.p.dzMode ≠ .off ∧ s.rx.p.dzLo.toInt < c.2.1.toInt ∧ c.2.1.toInt < s.rx.p.dzHi.toInt ∧
      s.rx.last = c.2.2 := by decide

theorem witness_EighthBit :
    (running .off false 6 (List.replicate 6 true) (some true) []).rx.acc.length < 7 ∧
    (running .off false 7 (List.replicate 7 true) (some true) (List.replicate 7 0)).rx.acc.length = 7 ∧
    (running .off false 7 (List.replicate 7 true) (some true) (List.replicate 8 0)).rx.acc.length ≤ 7 := by decide

theorem witness_Slicer :
    (1499 : Int) < (rx1 .off false).T.toInt ∧ (rx1 .off false).T.toInt ≤ 1500 ∧ (rx1 .off false).inv = false ∧
    (rx1 .off true).inv = true := by decide

theorem witness_Schedule :
    scheduleOk (latchRx (rxaRegs 5706 1400 1600)) = true ∧ (latchRx (rxaRegs 5706 1400 1600)).fl ≠ 0 ∧
    scheduleOk (rx1 .off false) = true ∧ (rx1 .off false).fl = 0 := by decide

/-- A short link: slots of 4 samples, 1 preamble slot, carrier +1 at offset 1 of every slot. -/
def linkTx : TxParams := ⟨false, 100, 200, 1, 4, 40, 4, 1⟩

/-- The receiver's parameters for it, framed or not. -/
def linkRx (fl : Word) (inv : Bool) : RxParams := ⟨4, 1, 1, fl, 200, .drop, 120, 180, inv⟩

theorem witness_RoundTrip_carrier :
    ∀ i, i < 8 → car linkTx ((linkRx 40 true).off.toNat + (linkTx.P.toNat + i) * linkTx.S.toNat) = 1 := by
  decide +kernel

theorem witness_RoundTrip_levels :
    ¬ ((120#32).toInt < linkTx.aLow.toInt ∧ linkTx.aLow.toInt < (180#32).toInt) ∧
    ¬ ((120#32).toInt < linkTx.aHigh.toInt ∧ linkTx.aHigh.toInt < (180#32).toInt) ∧
    linkTx.aLow.toInt < (200#32).toInt ∧ (200#32).toInt ≤ linkTx.aHigh.toInt := by decide

/-- All the premises of both round trips, framed (`fl = 40`) and unframed (`fl = 0`), both polarities. -/
theorem witness_RoundTrip (fl : Word) (inv : Bool) :
    let s := armed (linkRx fl inv)
    txConfigOk linkTx = true ∧ s.rx.state = .armed ∧ s.rx.m = 0 ∧ s.rx.k = 0 ∧ s.rx.acc = [] ∧
    s.rxq.length + [0x48#8, 0x69#8].length ≤ 8 ∧ s.rx.p.sl = linkTx.S ∧ s.rx.p.skip = linkTx.P ∧
    s.rx.p.fl = fl ∧ linkTx.N = 40 ∧ s.rx.p.off.toNat < linkTx.S.toNat ∧
    s.rx.p.off.toNat + (linkTx.P.toNat + 7) * linkTx.S.toNat < linkTx.N.toNat ∧
    (¬ (s.rx.p.dzLo.toInt < linkTx.aLow.toInt ∧ linkTx.aLow.toInt < s.rx.p.dzHi.toInt) ∧
     ¬ (s.rx.p.dzLo.toInt < linkTx.aHigh.toInt ∧ linkTx.aHigh.toInt < s.rx.p.dzHi.toInt)) ∧
    (∀ i, i < 8 → car linkTx (s.rx.p.off.toNat + (linkTx.P.toNat + i) * linkTx.S.toNat) = 1) ∧
    linkTx.aLow.toInt < s.rx.p.T.toInt ∧ s.rx.p.T.toInt ≤ linkTx.aHigh.toInt :=
  ⟨by decide, rfl, rfl, rfl, rfl, (by decide : 0 + 2 ≤ 8), rfl, rfl, rfl, rfl, (by decide : 1 < 4),
    (by decide : 1 + (1 + 7) * 4 < 40), ⟨witness_RoundTrip_levels.1, witness_RoundTrip_levels.2.1⟩,
    witness_RoundTrip_carrier, witness_RoundTrip_levels.2.2⟩

theorem witness_BusErr :
    ∀ t ∈ [Transaction.read 0x6C 4, .write 0x00 4 1, .read 0x18 4, .read 0x6D 4, .write 0x00 2 1, .read 0x80 4],
      (next1 (.bus t) txReady).env.pending = [.bus t] := by decide

theorem witness_Reads :
    Reg.rxThrEff ≠ .rxData ∧
    (next1 (.bus (.read Reg.rxThrEff.offset 4)) txReady).env.pending = [.bus (.read 0x6C 4)] := by decide

theorem witness_RxDataRead :
    ∀ q ∈ [[], [0x48#8], [0x48, 0x69]],
      (next1 (.bus (.read 0x60 4)) (running .off false 0 [] none q)).env.pending = [.bus (.read 0x60 4)] ∧
      (next1 (.bus (.read 0x60 4)) (running .off false 0 [] none q)).rxq = q := by decide

theorem witness_ConfigurationWrite :
    ∀ r ∈ [Reg.ctrl, .irqEn, .aLow, .preLen, .carDen], r.access = .rw ∧
      (next1 (wr r 0xFFFFFFFF) (sending 3 none)).env.pending = [.bus (.write r.offset 4 0xFFFFFFFF)] := by decide

theorem witness_ReadOnlyWrite :
    ∀ r ∈ [Reg.id, .status, .txPos, .rxPos, .rxData, .rxAcc, .ambigIdx, .rxThrEff],
      (next1 (wr r 1) txReady).env.pending = [.bus (.write r.offset 4 1)] := by decide

theorem witness_IntStatWrite :
    (next1 (wr .intStat 0xFFFFFFFF) txReady).env.pending = [.bus (.write 0x10 4 0xFFFFFFFF)] := by decide

theorem witness_Views :
    (running .off false 0 [] none (List.replicate 8 0)).rxq.length ≤ 8 ∧
    (running .off false 7 (List.replicate 7 true) (some true) []).rx.acc.length ≤ 7 ∧
    (sending 3 none).tx.active = some ⟨0x48, txa, 3⟩ ∧ txReady.tx.active = none := by decide

/-- For each cause, a state and an event whose step sets it from clear. -/
def causeCase : Cause → Event × State
  | .txDone => (.pull, sending 6599 none)
  | .rxStart => (.push 5, armed (rx1 .off false))
  | .ambig => (.push 1500, running .drop false 0 [] none [])
  | .rxOvf => (.push 0, running .off false 7 (List.replicate 7 false) (some false) (List.replicate 8 0))
  | .txOvf => (wr .cmd 0x01000000, sending 0 (some ⟨0x69, txa⟩))
  | .trunc => (wr .cmd 0x01000048, State.reset.setRegs (txaRegs 6599))
  | .cfgErr => (wr .cmd 0x03000000, State.reset)
  | .badCmd => (wr .cmd 0x07000000, State.reset)

theorem witness_CausesAreRaised :
    ∀ c ∈ [Cause.txDone, .rxStart, .ambig, .rxOvf, .txOvf, .trunc, .cfgErr, .badCmd],
      (next1 (causeCase c).1 (causeCase c).2).env.pending = [(causeCase c).1] ∧
      step (next1 (causeCase c).1 (causeCase c).2) = .next (after (causeCase c).1 ((causeCase c).2.setPending [])) ∧
      (next1 (causeCase c).1 (causeCase c).2).sticky.has c = false ∧
      (after (causeCase c).1 ((causeCase c).2.setPending [])).sticky.has c = true := by
  intro c _
  refine ⟨rfl, ?_, ?_, ?_⟩
  · cases c <;> rfl
  · cases c <;> decide
  · cases c <;> decide

theorem witness_StickyBitsAreCleared :
    ∀ e ∈ [Event.reset, wr .cmd 0x06000000, wr .intStat 0x40],
      let s := next1 e (txReady.setSticky { Sticky.empty with txOvf := true })
      s.env.pending = [e] ∧ s.sticky.has .txOvf = true ∧
      (after e (s.setPending [])).sticky.has .txOvf = false := by decide

theorem witness_StickyBitsAreCleared_step :
    ∀ e ∈ [Event.reset, wr .cmd 0x06000000, wr .intStat 0x40],
      let s := next1 e (txReady.setSticky { Sticky.empty with txOvf := true })
      step s = .next (after e (s.setPending [])) := by
  intro e he
  fin_cases he <;> rfl

theorem witness_LatchedRxParameters :
    ∀ e ∈ [Event.reset, wr .cmd 0x03000000, wr .cmd 0x06000000],
      let s := next1 e ((armed (rx1 .off false)).setRegs (rxaRegs 6600 1400 1600))
      s.env.pending = [e] ∧ (after e (s.setPending [])).rx.p ≠ s.rx.p := by decide

theorem witness_LatchedRxParameters_step :
    ∀ e ∈ [Event.reset, wr .cmd 0x03000000, wr .cmd 0x06000000],
      let s := next1 e ((armed (rx1 .off false)).setRegs (rxaRegs 6600 1400 1600))
      step s = .next (after e (s.setPending [])) := by
  intro e he
  fin_cases he <;> rfl

theorem witness_Streams :
    step (next1 .pull (sending 3 none)) = .next (pull (sending 3 none)) ∧
    step (next1 (.push 5) (armed (rx1 .off false))) = .next (push 5 (armed (rx1 .off false))) := ⟨rfl, rfl⟩

/-- A state in the middle of a frame and of a receive session has the invariant. -/
theorem witness_invariant :
    ({ running .hold false 3 [true, false, true] (some true) [0x48] with
        tx := ⟨some ⟨0x48, txa, 605⟩, some ⟨0x69, txa⟩⟩ }).Inv where
  tx := ⟨by decide, fun f h => by cases h; exact ⟨by decide, by decide⟩, fun f h => by cases h; decide⟩
  rx := ⟨by decide, fun _ => by decide, ⟨fun j hj => by
    rw [sched_unframed (by decide)]
    have : j < 3 := hj
    simp only [running, rx1]
    simp
    omega, by decide⟩, by decide, by decide⟩
  fifo_bounded := by decide

theorem witness_StepKeepsTheInvariant :
    step (next1 .pull (sending 3 none)) = .next (pull (sending 3 none)) ∧ (next1 .pull (sending 3 none)).Inv :=
  ⟨rfl, ⟨⟨by decide, fun f h => by cases h; exact ⟨by decide, by decide⟩, fun f h => by cases h⟩,
    ⟨by decide, fun h => absurd rfl h, ⟨fun j hj => absurd hj (Nat.not_lt_zero j), by decide⟩, by decide, by decide⟩,
    by decide⟩⟩

theorem witness_ReachableStates :
    Reaches (State.reset.setPending [wr .cmd 0x07000000]) (after (wr .cmd 0x07000000) State.reset) :=
  .tail (.refl _) rfl

theorem witness_Window : (0x3F < 0x40) ∧ windowOffset 0x40 0x3F = none ∧ windowOffset 0x40 0x4C = some 0x0C := by
  decide

end Sys2Proof.Tests
end

section
/-! SUPPORT. What each command and each step of an agent can do, said once as cases (R50, R55, R121), for
the proofs of every invariant and of every statement about who alone can change something. -/

namespace Sys2Proof

/-- A command decoded from fields is the command with those fields (R68, R69). -/
theorem FormatC.eq_fields_of_decode {f : FormatC} {i : Instr} (h : f.decode = .command i) : f = i.fields := by
  obtain ⟨op, mbz, arg⟩ := f
  simp only [FormatC.decode] at h
  split_ifs at h <;> cases h <;> simp_all [Instr.fields]

/-- No word but its own encoding is read as a command (R64, R68). -/
theorem encode_of_decode {v : Word} {i : Instr} (h : decode v = .command i) : encode i = v := by
  rw [encode, ← FormatC.eq_fields_of_decode h, FormatC.toWord_ofWord]

namespace Machine

/-- What TX_SEND does (R84, R86, R87, R88): refused by its check; dropped while a frame is pending; or
accepted, with TRUNC for a frame that is too short. -/
theorem execTxSend_cases (s : State) (b : Byte) :
    (txConfigOk (latchTx s.regs) = false ∧ execTxSend b s = .next (raise .cfgErr s)) ∨
    (txConfigOk (latchTx s.regs) = true ∧ s.tx.pending.isSome = true ∧
      execTxSend b s = .next (raise .txOvf s)) ∨
    (txConfigOk (latchTx s.regs) = true ∧ s.tx.pending = none ∧ tooShort (latchTx s.regs) = true ∧
      execTxSend b s = .next ((raise .trunc s).setTx (queueFrame b (latchTx s.regs) s.tx))) ∨
    (txConfigOk (latchTx s.regs) = true ∧ s.tx.pending = none ∧ tooShort (latchTx s.regs) = false ∧
      execTxSend b s = .next (s.setTx (queueFrame b (latchTx s.regs) s.tx))) := by
  unfold execTxSend
  rcases hok : txConfigOk (latchTx s.regs) with _ | _
  · simp [hok]
  · rcases hp : s.tx.pending with _ | f
    · rcases hshort : tooShort (latchTx s.regs) with _ | _ <;> simp [hok, hshort]
    · simp [hok]

/-- What RX_START does (R95, R97): refused by its check, or a fresh session with the latched parameters. -/
theorem execRxStart_cases (s : State) :
    (rxConfigOk s.regs = false ∧ execRxStart s = .next (raise .cfgErr s)) ∨
    (rxConfigOk s.regs = true ∧ execRxStart s = .next (s.setRx ⟨.armed, latchRx s.regs, 0, 0, [], none⟩)) := by
  unfold execRxStart
  rcases rxConfigOk s.regs with _ | _ <;> simp

/-- `Executes i s t`: command `i` in state `s` gives the next state `t`, one constructor per kind of effect. -/
inductive Executes : Instr → State → State → Prop where
  /-- NOP (R121). -/
  | nop (s : State) : Executes .nop s s
  /-- TX_SEND refused by its check (R84). -/
  | sendRefused (b : Byte) (s : State) (bad : txConfigOk (latchTx s.regs) = false) :
      Executes (.txSend b) s (raise .cfgErr s)
  /-- TX_SEND dropped behind a pending frame (R86). -/
  | sendDropped (b : Byte) (s : State) (ok : txConfigOk (latchTx s.regs) = true)
      (full : s.tx.pending.isSome = true) : Executes (.txSend b) s (raise .txOvf s)
  /-- TX_SEND accepted with a frame that is too short (R87). -/
  | sendShort (b : Byte) (s : State) (ok : txConfigOk (latchTx s.regs) = true) (free : s.tx.pending = none)
      (short : tooShort (latchTx s.regs) = true) :
      Executes (.txSend b) s ((raise .trunc s).setTx (queueFrame b (latchTx s.regs) s.tx))
  /-- TX_SEND accepted with a whole frame (R88). -/
  | sendWhole (b : Byte) (s : State) (ok : txConfigOk (latchTx s.regs) = true) (free : s.tx.pending = none)
      (whole : tooShort (latchTx s.regs) = false) :
      Executes (.txSend b) s (s.setTx (queueFrame b (latchTx s.regs) s.tx))
  /-- TX_ABORT (R92). -/
  | abort (s : State) : Executes .txAbort s (s.setTx TxEngine.empty)
  /-- RX_START refused by its check (R95). -/
  | startRefused (s : State) (bad : rxConfigOk s.regs = false) : Executes .rxStart s (raise .cfgErr s)
  /-- RX_START accepted (R97). -/
  | start (s : State) (ok : rxConfigOk s.regs = true) :
      Executes .rxStart s (s.setRx ⟨.armed, latchRx s.regs, 0, 0, [], none⟩)
  /-- RX_STOP (R98). -/
  | stop (s : State) : Executes .rxStop s (s.setRx { s.rx with state := .idle })
  /-- RX_FIFO_CLEAR (R99). -/
  | clearFifo (s : State) : Executes .rxFifoClear s (s.setRxq [])
  /-- SOFT_RESET (R122). -/
  | softReset (s : State) : Executes .softReset s ⟨s.regs, .empty, 0, .empty, .reset, [], s.env⟩

/-- `Executes` holds of every next state that `exec` gives. -/
theorem executes_of_exec {i : Instr} {s t : State} (h : exec i s = .next t) : Executes i s t := by
  cases i with
  | nop => cases h; exact .nop s
  | txSend b =>
    rcases execTxSend_cases s b with ⟨bad, he⟩ | ⟨ok, full, he⟩ | ⟨ok, free, short, he⟩ |
      ⟨ok, free, whole, he⟩ <;> cases he.symm.trans h
    · exact .sendRefused b s bad
    · exact .sendDropped b s ok full
    · exact .sendShort b s ok free short
    · exact .sendWhole b s ok free whole
  | txAbort => cases h; exact .abort s
  | rxStart =>
    rcases execRxStart_cases s with ⟨bad, he⟩ | ⟨ok, he⟩ <;> cases he.symm.trans h
    · exact .startRefused s bad
    · exact .start s ok
  | rxStop => cases h; exact .stop s
  | rxFifoClear => cases h; exact .clearFifo s
  | softReset => cases h; exact .softReset s

/-- `Performs e s t`: event `e` in state `s` gives the next state `t`, one constructor per kind of effect. -/
inductive Performs : Event → State → State → Prop where
  /-- The TX sink's step (R89). -/
  | pulled (s : State) : Performs .pull s (pull s)
  /-- The RX source's step (R100). -/
  | pushed (w : Word) (s : State) : Performs (.push w) s (push w s)
  /-- The hardware reset (R141). -/
  | reset (s : State) : Performs .reset s (hardwareReset s)
  /-- A READ that reaches no register (R45). -/
  | readErr {off size : Nat} (s : State) (h : target off size = none) :
      Performs (.bus (.read off size)) s (s.answer .err)
  /-- A WRITE that reaches no register (R45). -/
  | writeErr {off size : Nat} (v : Word) (s : State) (h : target off size = none) :
      Performs (.bus (.write off size v)) s (s.answer .err)
  /-- A READ without a side effect (R46). -/
  | read {r : Reg} (s : State) (h : r ≠ .rxData) :
      Performs (.bus (.read r.offset 4)) s (s.answer (.ok (readView r s)))
  /-- A READ of RX_DATA, which pops the FIFO (R51). -/
  | readPop (s : State) :
      Performs (.bus (.read Reg.rxData.offset 4)) s ((popFifo s).answer (.ok (rxData s.rxq)))
  /-- A WRITE to a configuration register (R47). -/
  | configure {r : Reg} (v : Word) (s : State) (h : r.access = .rw) :
      Performs (.bus (.write r.offset 4 v)) s ((s.setRegs (writeRegs r v s.regs)).answer (.ok 0))
  /-- A WRITE to a read-only register (R48). -/
  | ignore {r : Reg} (v : Word) (s : State) (h : r.access = .ro) :
      Performs (.bus (.write r.offset 4 v)) s (s.answer (.ok 0))
  /-- A WRITE to INT_STAT (R49). -/
  | clear (v : Word) (s : State) :
      Performs (.bus (.write Reg.intStat.offset 4 v)) s ((acknowledge v s).answer (.ok 0))
  /-- A WRITE of an illegal word to CMD (R70). -/
  | badCommand {v : Word} {why : Invalid} (s : State) (h : decode v = .invalid why) :
      Performs (.bus (.write Reg.cmd.offset 4 v)) s ((raise .badCmd s).answer (.ok 0))
  /-- A WRITE of a command's word to CMD (R50). -/
  | execute {i : Instr} {s t : State} (h : Executes i s t) :
      Performs (.bus (.write Reg.cmd.offset 4 (encode i))) s (t.answer (.ok 0))

/-- A READ's effect. -/
theorem performs_of_read {off size : Nat} {s t : State} (h : bus (.read off size) s = .next t) :
    Performs (.bus (.read off size)) s t := by
  rcases htarget : target off size with _ | r
  · rw [bus_read_err htarget] at h
    cases h
    exact .readErr s htarget
  · obtain ⟨rfl, rfl⟩ := target_eq_some.1 htarget
    rw [bus_read] at h
    cases h
    by_cases hr : r = .rxData
    · subst hr
      exact .readPop s
    · rw [readEffect, if_neg hr]
      exact .read s hr

/-- The effect of a WRITE to CMD. -/
theorem performs_of_command {v : Word} {s t : State}
    (h : andThen (command v s) (fun u => u.answer (.ok 0)) = .next t) :
    Performs (.bus (.write Reg.cmd.offset 4 v)) s t := by
  unfold command at h
  rcases hv : decode v with i | why
  · simp only [hv] at h
    obtain rfl := encode_of_decode hv
    rcases hexec : exec i s with u | why | why <;> rw [hexec] at h <;> cases h
    exact .execute (executes_of_exec hexec)
  · simp only [hv] at h
    cases h
    exact .badCommand s hv

/-- A WRITE's effect. -/
theorem performs_of_write {off size : Nat} {v : Word} {s t : State}
    (h : bus (.write off size v) s = .next t) : Performs (.bus (.write off size v)) s t := by
  rcases htarget : target off size with _ | r
  · rw [bus_write_err v htarget] at h
    cases h
    exact .writeErr v s htarget
  · obtain ⟨rfl, rfl⟩ := target_eq_some.1 htarget
    rw [bus_write] at h
    rcases writeEffect_cases r v s with ⟨hrw, he⟩ | ⟨hro, he⟩ | ⟨rfl, he⟩ | ⟨rfl, he⟩ <;> rw [he] at h
    · cases h; exact .configure v s hrw
    · cases h; exact .ignore v s hro
    · exact performs_of_command h
    · cases h; exact .clear v s

/-- `Performs` holds of every next state that `perform` gives. -/
theorem performs_of_perform {e : Event} {s t : State} (h : perform e s = .next t) : Performs e s t := by
  cases e with
  | bus tr =>
    cases tr with
    | read off size => exact performs_of_read h
    | write off size v => exact performs_of_write h
  | pull => cases h; exact .pulled s
  | push w => cases h; exact .pushed w s
  | reset => cases h; exact .reset s

/-- What a step does when an event is pending (R55, R58). -/
theorem performs_of_step {e : Event} {es : List Event} {s t : State} (he : s.env.pending = e :: es)
    (h : step s = .next t) : Performs e (s.setPending es) t :=
  performs_of_perform (step_cons he ▸ h)

end Machine

end Sys2Proof
end

section
/-! SUPPORT. Every operation keeps the invariants of the two engines and of the FIFO (R13, R84, R95, R105). -/

namespace Sys2Proof.Machine

/-! ## The transmit engine -/

theorem TxEngine.empty_inv : TxEngine.empty.Inv where
  pending_needs_active h := h
  active_good _ h := by cases h
  pending_checked _ h := by cases h

/-- A checked frame at its sample 0 has a sample to emit (R84: N is not 0). -/
theorem ActiveFrame.good_of_checked {p : TxParams} (b : Byte) (h : txConfigOk p = true) :
    ActiveFrame.good ⟨b, p, 0⟩ := by
  obtain ⟨-, -, hN, -⟩ := (txConfigOk_iff p).1 h
  exact ⟨h, toNat_pos_of_ne_zero hN⟩

/-- One good frame alone in the engine. -/
theorem TxEngine.single_inv {f : ActiveFrame} (h : f.good) : TxEngine.Inv ⟨some f, none⟩ where
  pending_needs_active _ := rfl
  active_good _ hg := by cases hg; exact h
  pending_checked _ hg := by cases hg

/-- Any good frame may take the active one's place. -/
theorem TxEngine.Inv.setActive {t : TxEngine} (ht : t.Inv) {f : ActiveFrame} (h : f.good) :
    TxEngine.Inv { t with active := some f } where
  pending_needs_active _ := rfl
  active_good _ hg := by cases hg; exact h
  pending_checked := ht.pending_checked

/-- Queueing a checked frame keeps the engine's invariant (R86). -/
theorem queueFrame_inv {t : TxEngine} (ht : t.Inv) (b : Byte) {p : TxParams} (hp : txConfigOk p = true) :
    (queueFrame b p t).Inv := by
  unfold queueFrame
  rcases hact : t.active with _ | f
  · exact ht.setActive (ActiveFrame.good_of_checked b hp)
  · exact
      { pending_needs_active := fun _ => by simp
        active_good := fun g hg => ht.active_good g (hact.trans hg)
        pending_checked := fun g hg => by cases hg; exact hp }

/-! ## The receive engine -/

/-- For checked parameters every decision lies after the one before it (R105). -/
theorem sched_lt_succ {p : RxParams} (h : scheduleOk p = true) (k : Nat) : sched p k < sched p (k + 1) := by
  obtain ⟨hsl, hfl⟩ := (scheduleOk_iff p).1 h
  have hpos : 0 < p.sl.toNat := toNat_pos_of_ne_zero hsl
  by_cases hf : p.fl = 0
  · rw [sched_unframed hf, sched_unframed hf, ← Nat.add_assoc, Nat.add_mul _ 1]
    omega
  · have hframe := hfl.resolve_left hf
    rw [sched_framed hf, sched_framed hf]
    by_cases hlast : k % 8 = 7
    · have hdiv : (k + 1) / 8 = k / 8 + 1 := by omega
      have hmod : (k + 1) % 8 = 0 := by omega
      rw [hlast, hdiv, hmod, Nat.add_mul (k / 8) 1]
      omega
    · have hdiv : (k + 1) / 8 = k / 8 := by omega
      have hmod : (k + 1) % 8 = k % 8 + 1 := by omega
      rw [hdiv, hmod, ← Nat.add_assoc p.skip.toNat, Nat.add_mul _ 1 p.sl.toNat]
      omega

/-- A fresh session with any parameters has passed no decision point. -/
theorem RxEngine.fresh_atDecision (st : RxState) (p : RxParams) (last : Option Bool) :
    RxEngine.atDecision ⟨st, p, 0, 0, [], last⟩ :=
  ⟨fun j hj => absurd hj (Nat.not_lt_zero j), Nat.zero_le _⟩

theorem RxEngine.reset_inv : RxEngine.reset.Inv where
  acc_bounded := by decide
  schedule_checked h := absurd rfl h
  decision_index := fresh_atDecision _ _ _
  last_is_newest h := absurd rfl h
  armed_is_fresh h := by cases h

/-- The engine after RX_START (R97). -/
theorem RxEngine.armed_inv {p : RxParams} (h : scheduleOk p = true) :
    RxEngine.Inv ⟨.armed, p, 0, 0, [], none⟩ where
  acc_bounded := Nat.zero_le _
  schedule_checked _ := h
  decision_index := fresh_atDecision _ _ _
  last_is_newest h := absurd rfl h
  armed_is_fresh _ := ⟨rfl, rfl, rfl, rfl⟩

section
variable {r : RxEngine}

/-- RX_STOP keeps the invariant (R98). -/
theorem RxEngine.Inv.stop (h : r.Inv) : RxEngine.Inv { r with state := .idle } where
  acc_bounded := h.acc_bounded
  schedule_checked hs := absurd rfl hs
  decision_index := h.decision_index
  last_is_newest := h.last_is_newest
  armed_is_fresh hs := by cases hs

/-- The start detector keeps the invariant (R102). -/
theorem RxEngine.Inv.toRun (h : r.Inv) (hs : r.state ≠ .idle) : RxEngine.Inv { r with state := .run } where
  acc_bounded := h.acc_bounded
  schedule_checked _ := h.schedule_checked hs
  decision_index := h.decision_index
  last_is_newest := h.last_is_newest
  armed_is_fresh hs := by cases hs

/-- The accumulator after an appended bit still holds at most 7 bits (R13, R115). -/
theorem RxEngine.appended_acc_length (h : r.acc.length ≤ 7) (x : Bool) : (r.appended x).acc.length ≤ 7 := by
  unfold appended
  dsimp only
  split
  · simp
  · rw [List.length_append, List.length_singleton]
    omega

/-- After an appended bit the last bit is the accumulator's newest, unless that was flushed (R39, R114). -/
theorem RxEngine.appended_last_is_newest (x : Bool) (h : (r.appended x).acc ≠ []) :
    (r.appended x).last = (r.appended x).acc.getLast? := by
  unfold appended at h ⊢
  dsimp only at h ⊢
  split
  · simp_all
  · exact List.getLast?_concat.symm

/-- Appending a bit in RUN keeps the invariant (R114, R115). -/
theorem RxEngine.Inv.appended (h : r.Inv) (hs : r.state = .run) (x : Bool) : (r.appended x).Inv where
  acc_bounded := appended_acc_length h.acc_bounded x
  schedule_checked := h.schedule_checked
  decision_index := h.decision_index
  last_is_newest := appended_last_is_newest x
  armed_is_fresh ha := by rw [appended_state, hs] at ha; cases ha

/-- A sample in RUN that is no decision point keeps the invariant (R100). -/
theorem RxEngine.Inv.count (h : r.Inv) (hs : r.state = .run) (hm : r.m ≠ sched r.p r.k) :
    RxEngine.Inv { r with m := r.m + 1 } where
  acc_bounded := h.acc_bounded
  schedule_checked := h.schedule_checked
  decision_index :=
    ⟨fun j hj => Nat.lt_succ_of_lt (h.decision_index.1 j hj), Nat.lt_of_le_of_ne h.decision_index.2 hm⟩
  last_is_newest := h.last_is_newest
  armed_is_fresh ha := by rw [hs] at ha; cases ha

/-- A sample in RUN at a decision point keeps the invariant: the next decision lies after it (R105). -/
theorem RxEngine.Inv.decided (h : r.Inv) (hs : r.state = .run) (hm : r.m = sched r.p r.k) :
    RxEngine.Inv { r with k := r.k + 1, m := r.m + 1 } where
  acc_bounded := h.acc_bounded
  schedule_checked := h.schedule_checked
  decision_index := by
    have hchecked : scheduleOk r.p = true := h.schedule_checked (by rw [hs]; decide)
    refine ⟨fun j hj => ?_, ?_⟩
    · change sched r.p j < r.m + 1
      rcases Nat.lt_succ_iff_lt_or_eq.1 hj with hlt | rfl
      · exact Nat.lt_succ_of_lt (h.decision_index.1 j hlt)
      · omega
    · change r.m + 1 ≤ sched r.p (r.k + 1)
      have := sched_lt_succ hchecked r.k
      omega
  last_is_newest := h.last_is_newest
  armed_is_fresh ha := by rw [hs] at ha; cases ha

end

/-! ## The whole state -/

variable {s t : State}

/-- The invariant speaks of the two engines and the FIFO only. -/
theorem State.Inv.congr (h : s.Inv) (htx : t.tx = s.tx) (hrx : t.rx = s.rx) (hq : t.rxq = s.rxq) : t.Inv where
  tx := htx ▸ h.tx
  rx := hrx ▸ h.rx
  fifo_bounded := hq ▸ h.fifo_bounded

theorem State.Inv.setPending (h : s.Inv) (es : List Event) : (s.setPending es).Inv := h.congr rfl rfl rfl
theorem State.Inv.answer (h : s.Inv) (a : Answer) : (s.answer a).Inv := h.congr rfl rfl rfl
theorem State.Inv.raise (h : s.Inv) (c : Cause) : (Machine.raise c s).Inv := h.congr rfl rfl rfl
theorem State.Inv.setTx (h : s.Inv) {x : TxEngine} (hx : x.Inv) : (s.setTx x).Inv := ⟨hx, h.rx, h.fifo_bounded⟩
theorem State.Inv.setRx (h : s.Inv) {r : RxEngine} (hr : r.Inv) : (s.setRx r).Inv := ⟨h.tx, hr, h.fifo_bounded⟩
theorem State.Inv.setRxq (h : s.Inv) {q : List Byte} (hq : q.length ≤ Config.rxqDepth) : (s.setRxq q).Inv :=
  ⟨h.tx, h.rx, hq⟩

theorem State.reset_inv : State.reset.Inv := ⟨TxEngine.empty_inv, RxEngine.reset_inv, Nat.zero_le _⟩

/-- A popped FIFO is no longer than it was (R51). -/
theorem popFifo_inv (h : s.Inv) : (popFifo s).Inv := by
  refine h.setRxq ?_
  rw [List.length_tail]
  exact (Nat.sub_le _ _).trans h.fifo_bounded

/-- A PULL keeps the invariant: the next sample exists, or the frame has ended (R89, R90). -/
theorem pull_inv (h : s.Inv) : (pull s).Inv := by
  rcases pull_cases s with ⟨_, he⟩ | ⟨f, hf, hn, he⟩ | ⟨f, hf, hn, he⟩ <;> rw [he]
  · exact h
  · obtain ⟨hchecked, hlt⟩ := h.tx.active_good f hf
    have hnext : ActiveFrame.good { f with n := f.n + 1 } := ⟨hchecked, Nat.lt_of_le_of_ne hlt hn⟩
    exact (h.congr rfl rfl rfl : (s.emit _).Inv).setTx (h.tx.setActive hnext)
  · have hemit : (s.emit (sampleWord f.b f.p f.n)).Inv := h.congr rfl rfl rfl
    rcases frameEnd_cases (s.emit (sampleWord f.b f.p f.n)) with ⟨_, hend⟩ | ⟨g, hg, hend⟩ <;> rw [hend]
    · exact (hemit.raise .txDone).setTx TxEngine.empty_inv
    · exact (hemit.raise .txDone).setTx
        (TxEngine.single_inv (ActiveFrame.good_of_checked g.b (h.tx.pending_checked g hg)))

/-- Appending a bit in RUN keeps the invariant: a full FIFO takes no byte (R114, R116). -/
theorem appendBit_inv (h : s.Inv) (hs : s.rx.state = .run) (x : Bool) : (appendBit x s).Inv := by
  have hrx : (s.setRx (s.rx.appended x)).Inv := h.setRx (h.rx.appended hs x)
  rcases appendBit_cases s x with ⟨_, he⟩ | ⟨_, hroom, he⟩ | ⟨_, _, he⟩ <;> rw [he]
  · exact hrx
  · exact hrx.setRxq (by rw [List.length_append]; exact hroom)
  · exact hrx.raise .rxOvf

theorem raiseAmbig_inv (h : s.Inv) (m : Nat) : (raiseAmbig m s).Inv :=
  h.congr (raiseAmbig_tx s m) (raiseAmbig_rx s m) (raiseAmbig_rxq s m)

/-- A slot decision in RUN keeps the invariant (R108). -/
theorem decideSlot_inv (h : s.Inv) (hs : s.rx.state = .run) (v : Int) (m : Nat) : (decideSlot v m s).Inv := by
  rcases decideSlot_cases s v m with ⟨_, he⟩ | ⟨_, _, he⟩ | ⟨x, _, _, _, he⟩ <;> rw [he]
  · exact appendBit_inv h hs _
  · exact raiseAmbig_inv h m
  · exact appendBit_inv (raiseAmbig_inv h m) (by rw [raiseAmbig_rx, hs]) x

/-- A decision leaves the receive state, the latched parameters and both indices alone. -/
theorem decideSlot_rx_frame (s : State) (v : Int) (m : Nat) :
    (decideSlot v m s).rx.state = s.rx.state ∧ (decideSlot v m s).rx.p = s.rx.p ∧
      (decideSlot v m s).rx.m = s.rx.m ∧ (decideSlot v m s).rx.k = s.rx.k := by
  rcases decideSlot_rx s v m with he | ⟨x, he⟩ <;> simp [he]

/-- A sample in RUN keeps the invariant (R100). -/
theorem runSample_inv (h : s.Inv) (hs : s.rx.state = .run) (v : Int) : (runSample v s).Inv := by
  rcases runSample_cases s v with ⟨hm, he⟩ | ⟨hm, he⟩ <;> rw [he]
  · obtain ⟨hstate, hp, hm', hk⟩ := decideSlot_rx_frame s v s.rx.m
    have hd := decideSlot_inv h hs v s.rx.m
    exact hd.setRx (hd.rx.decided (hstate.trans hs) (by rw [hm', hp, hk, ← hm]))
  · exact h.setRx (h.rx.count hs hm)

/-- A PUSH keeps the invariant (R100, R101, R102). -/
theorem push_inv (h : s.Inv) (w : Word) : (push w s).Inv := by
  rcases push_cases s w with ⟨_, he⟩ | ⟨hs, he⟩ | ⟨hs, he⟩ <;> rw [he]
  · exact h
  · have hleave : (leaveArmed s).Inv := (h.setRx (h.rx.toRun (by rw [hs]; decide))).raise .rxStart
    exact runSample_inv hleave rfl _
  · exact runSample_inv h hs _

/-- Every command keeps the invariant: only a checked snapshot is queued (R84, R88), and only a checked
schedule is latched (R95, R97). -/
theorem Executes.inv {i : Instr} (hx : Executes i s t) (h : s.Inv) : t.Inv := by
  cases hx with
  | nop => exact h
  | sendRefused | startRefused => exact h.raise .cfgErr
  | sendDropped => exact h.raise .txOvf
  | sendShort b _ ok => exact (h.raise .trunc).setTx (queueFrame_inv h.tx b ok)
  | sendWhole b _ ok => exact h.setTx (queueFrame_inv h.tx b ok)
  | abort => exact h.setTx TxEngine.empty_inv
  | start _ ok =>
    obtain ⟨hsched, _⟩ := Bool.and_eq_true_iff.1 ok
    exact h.setRx (RxEngine.armed_inv hsched)
  | stop => exact h.setRx h.rx.stop
  | clearFifo => exact h.setRxq (Nat.zero_le _)
  | softReset => exact State.reset_inv.congr rfl rfl rfl

/-- Every event keeps the invariant. -/
theorem Performs.inv {e : Event} (hp : Performs e s t) (h : s.Inv) : t.Inv := by
  cases hp with
  | pulled => exact pull_inv h
  | pushed w => exact push_inv h w
  | reset => exact State.reset_inv.congr rfl rfl rfl
  | readPop => exact (popFifo_inv h).answer _
  | execute hx => exact (hx.inv h).answer _
  | readErr | writeErr | read | configure | ignore | clear | badCommand => exact h.congr rfl rfl rfl

theorem step_inv (h : s.Inv) (hstep : step s = .next t) : t.Inv := by
  rcases he : s.env.pending with _ | ⟨e, es⟩
  · rw [step_nil he] at hstep
    cases hstep
    exact h
  · exact (performs_of_step he hstep).inv (h.setPending es)

/-- Settles O56: by cases of what the pending event does. -/
theorem stepKeepsTheInvariant : Obligations.StepKeepsTheInvariant :=
  fun _ _ h hstep => step_inv h hstep

/-- Settles O57. -/
theorem resetHasTheInvariant : Obligations.ResetHasTheInvariant := State.reset_inv

/-- The invariant of the first state holds in every state reached from it. -/
theorem Reaches.inv (hr : Reaches s t) (h : s.Inv) : t.Inv := by
  induction hr with
  | refl => exact h
  | tail _ hstep ih => exact step_inv ih hstep

/-- Settles O58, from the invariant of the reset state and of every step. -/
theorem reachableStatesAreBounded : Obligations.ReachableStatesAreBounded := by
  intro es t hr
  have h : t.Inv := hr.inv (State.reset_inv.setPending es)
  refine ⟨?_, h.rx.acc_bounded, h.fifo_bounded⟩
  simpa [Option.isSome_iff_ne_none] using h.tx.pending_needs_active

end Sys2Proof.Machine
end

section
/-! SUPPORT. Who can clear a sticky bit (R131) and who can change the latched receive parameters (R38). -/

namespace Sys2Proof.Machine

variable {s t : State}

/-! ## A set sticky bit stays set -/

theorem raise_keeps_sticky {c : Cause} (h : s.sticky.has c = true) (d : Cause) :
    (raise d s).sticky.has c = true := by
  simp [h]

theorem pull_keeps_sticky {c : Cause} (h : s.sticky.has c = true) : (pull s).sticky.has c = true := by
  rcases pull_cases s with ⟨_, he⟩ | ⟨f, _, _, he⟩ | ⟨f, _, _, he⟩
  · rw [he]; exact h
  · rw [he]; exact h
  · rw [he]
    rcases frameEnd_cases (s.emit (sampleWord f.b f.p f.n)) with ⟨_, hend⟩ | ⟨g, _, hend⟩ <;> simp [hend, h]

theorem appendBit_keeps_sticky {c : Cause} (h : s.sticky.has c = true) (x : Bool) :
    (appendBit x s).sticky.has c = true := by
  rcases appendBit_cases s x with ⟨_, he⟩ | ⟨_, _, he⟩ | ⟨_, _, he⟩ <;> simp [he, h]

theorem decideSlot_keeps_sticky {c : Cause} (h : s.sticky.has c = true) (v : Int) (m : Nat) :
    (decideSlot v m s).sticky.has c = true := by
  have hambig : (raiseAmbig m s).sticky.has c = true := by simp [h]
  rcases decideSlot_cases s v m with ⟨_, he⟩ | ⟨_, _, he⟩ | ⟨x, _, _, _, he⟩ <;> rw [he]
  · exact appendBit_keeps_sticky h _
  · exact hambig
  · exact appendBit_keeps_sticky hambig x

theorem runSample_keeps_sticky {c : Cause} (h : s.sticky.has c = true) (v : Int) :
    (runSample v s).sticky.has c = true := by
  rcases runSample_cases s v with ⟨_, he⟩ | ⟨_, he⟩ <;> rw [he]
  · exact decideSlot_keeps_sticky h v s.rx.m
  · exact h

theorem push_keeps_sticky {c : Cause} (h : s.sticky.has c = true) (w : Word) :
    (push w s).sticky.has c = true := by
  rcases push_cases s w with ⟨_, he⟩ | ⟨_, he⟩ | ⟨_, he⟩ <;> rw [he]
  · exact h
  · exact runSample_keeps_sticky (by simp [h]) _
  · exact runSample_keeps_sticky h _

/-- SOFT_RESET is the only command that clears a sticky bit (R122, R131). -/
theorem Executes.keeps_sticky {i : Instr} {c : Cause} (hx : Executes i s t) (hi : i ≠ .softReset)
    (h : s.sticky.has c = true) : t.sticky.has c = true := by
  cases hx with
  | nop | sendWhole | abort | start | stop | clearFifo => exact h
  | sendRefused | startRefused => exact raise_keeps_sticky h .cfgErr
  | sendDropped => exact raise_keeps_sticky h .txOvf
  | sendShort => exact raise_keeps_sticky h .trunc
  | softReset => exact absurd rfl hi

/-- Which events can clear a set sticky bit (R131). -/
theorem Performs.clears_sticky {e : Event} {c : Cause} (hp : Performs e s t) (hset : s.sticky.has c = true)
    (hclear : t.sticky.has c = false) :
    e = .reset ∨ e = .bus (.write Reg.cmd.offset 4 (encode .softReset)) ∨
      ∃ v : Word, e = .bus (.write Reg.intStat.offset 4 v) ∧ v.getLsbD c.code = true := by
  have hkept : t.sticky.has c ≠ true := by simp [hclear]
  cases hp with
  | reset => exact .inl rfl
  | clear v => exact .inr (.inr ⟨v, rfl, by simpa [hset] using hclear⟩)
  | @execute i _ _ hx =>
    by_cases hi : i = .softReset
    · exact .inr (.inl (by rw [hi]))
    · exact absurd (hx.keeps_sticky hi hset) hkept
  | pulled => exact absurd (pull_keeps_sticky hset) hkept
  | pushed w => exact absurd (push_keeps_sticky hset w) hkept
  | badCommand => exact absurd (raise_keeps_sticky hset .badCmd) hkept
  | readErr | writeErr | read | readPop | configure | ignore => exact absurd hset hkept

/-- Settles O52, by cases of what the event does. -/
theorem stickyBitsAreClearedOnlyByHostOrReset : Obligations.StickyBitsAreClearedOnlyByHostOrReset :=
  fun _ _ _ _ _ he hstep hset hclear => (performs_of_step he hstep).clears_sticky hset hclear

/-! ## The latched receive parameters -/

@[simp] theorem runSample_rx_p (s : State) (v : Int) : (runSample v s).rx.p = s.rx.p := by
  rcases runSample_cases s v with ⟨_, he⟩ | ⟨_, he⟩
  · obtain ⟨_, hp, _, _⟩ := decideSlot_rx_frame s v s.rx.m
    rw [he]
    exact hp
  · rw [he, State.setRx_rx]

theorem push_rx_p (s : State) (w : Word) : (push w s).rx.p = s.rx.p := by
  rcases push_cases s w with ⟨_, he⟩ | ⟨_, he⟩ | ⟨_, he⟩ <;> simp [he]

theorem pull_rx (s : State) : (pull s).rx = s.rx := by
  rcases pull_cases s with ⟨_, he⟩ | ⟨f, _, _, he⟩ | ⟨f, _, _, he⟩
  · rw [he]
  · rw [he, State.setTx_rx, State.emit_rx]
  · rw [he]
    rcases frameEnd_cases (s.emit (sampleWord f.b f.p f.n)) with ⟨_, hend⟩ | ⟨g, _, hend⟩ <;> simp [hend]

/-- RX_START and SOFT_RESET are the only commands that change the latched parameters (R38). -/
theorem Executes.rx_p {i : Instr} (hx : Executes i s t) (hstart : i ≠ .rxStart) (hreset : i ≠ .softReset) :
    t.rx.p = s.rx.p := by
  cases hx with
  | start => exact absurd rfl hstart
  | softReset => exact absurd rfl hreset
  | nop | sendRefused | sendDropped | sendShort | sendWhole | abort | startRefused | stop | clearFifo => rfl

/-- Which events can change the latched parameters (R38). -/
theorem Performs.changes_rx_p {e : Event} (hp : Performs e s t) (hne : t.rx.p ≠ s.rx.p) :
    e = .reset ∨ e = .bus (.write Reg.cmd.offset 4 (encode .rxStart)) ∨
      e = .bus (.write Reg.cmd.offset 4 (encode .softReset)) := by
  cases hp with
  | reset => exact .inl rfl
  | @execute i _ _ hx =>
    by_cases hstart : i = .rxStart
    · exact .inr (.inl (by rw [hstart]))
    · by_cases hreset : i = .softReset
      · exact .inr (.inr (by rw [hreset]))
      · exact absurd (hx.rx_p hstart hreset) hne
  | pulled => exact absurd (congrArg RxEngine.p (pull_rx s)) hne
  | pushed w => exact absurd (push_rx_p s w) hne
  | readErr | writeErr | read | readPop | configure | ignore | clear | badCommand => exact absurd rfl hne

/-- Settles O54, by cases of what the event does. -/
theorem latchedRxParametersChangeOnlyByStartOrReset : Obligations.LatchedRxParametersChangeOnlyByStartOrReset :=
  fun _ _ _ _ he hstep hne => (performs_of_step he hstep).changes_rx_p hne

end Sys2Proof.Machine
end

section
/-! SUPPORT. The views of the registers (10_state.md), field by field. -/

namespace Sys2Proof.Machine

/-! ## RX_ACC -/

/-- A word made of two fields is worth the high field, moved up, plus the low field. -/
theorem toNat_append_add {m n : Nat} (x : BitVec m) (y : BitVec n) :
    (x ++ y).toNat = x.toNat * 2 ^ n + y.toNat := by
  rw [BitVec.toNat_append, ← Nat.shiftLeft_add_eq_or_of_lt y.isLt, Nat.shiftLeft_eq]

/-- The value of a list of bits as the sum of R29. -/
theorem bitsValue_eq_sum (bits : List Bool) :
    bitsValue bits =
      ∑ j ∈ Finset.range bits.length, (bits.getD j false).toNat * 2 ^ (bits.length - 1 - j) := by
  induction bits using List.reverseRecOn with
  | nil => rfl
  | append_singleton xs x ih =>
    have hold : ∀ j ∈ Finset.range xs.length,
        ((xs ++ [x]).getD j false).toNat * 2 ^ (xs.length - j) =
          2 * ((xs.getD j false).toNat * 2 ^ (xs.length - 1 - j)) := by
      intro j hj
      have hlt : j < xs.length := Finset.mem_range.1 hj
      have hexp : xs.length - j = xs.length - 1 - j + 1 := by omega
      rw [List.getD_append _ _ _ _ hlt, hexp, Nat.pow_succ]
      ring
    rw [bitsValue_append_singleton, List.length_append, List.length_singleton, Finset.sum_range_succ,
      Nat.add_sub_cancel, Finset.sum_congr rfl hold, ← Finset.mul_sum, ← ih]
    simp

/-- RX_ACC as the sum of its fields, for a bounded accumulator (R29). -/
theorem rxAcc_toNat {r : RxEngine} (h : r.acc.length ≤ 7) :
    (rxAcc r).toNat = bitsValue r.acc + 2 ^ 8 * r.acc.length + 2 ^ 12 * r.last.isSome.toNat +
      2 ^ 13 * (r.last.getD false).toNat := by
  have hbits : bitsValue r.acc < 2 ^ 8 :=
    (bitsValue_lt r.acc).trans_le (Nat.pow_le_pow_right (by decide) (h.trans (by decide)))
  have hcount : r.acc.length < 2 ^ 4 := by omega
  have hvalid := Bool.toNat_le r.last.isSome
  have hlast := Bool.toNat_le (r.last.getD false)
  simp only [rxAcc, BitVec.toNat_setWidth, toNat_append_add, BitVec.toNat_ofBool, BitVec.toNat_ofNat,
    Nat.mod_eq_of_lt hbits, Nat.mod_eq_of_lt hcount]
  omega

/-- Settles O47. -/
theorem rxAccShowsTheAccumulator : Obligations.RxAccShowsTheAccumulator := by
  intro s h
  rw [← bitsValue_eq_sum]
  exact rxAcc_toNat h

/-! ## The register map after a hardware reset -/

/-- No register shows the agents' record. -/
@[simp] theorem readView_setEnv (r : Reg) (s : State) (e : Env) : readView r (s.setEnv e) = readView r s := by
  cases r <;> rfl

/-- Every register but ID and INT_STAT reads 0 at reset (R17). -/
theorem readView_reset {r : Reg} (hid : r ≠ .id) (hint : r ≠ .intStat) : readView r State.reset = 0 := by
  cases r with
  | id => exact absurd rfl hid
  | intStat => exact absurd rfl hint
  | _ => decide

theorem intStat_reset : readView .intStat State.reset = 0x00000002#32 := by decide

/-- Settles O12: the reset step gives the reset state with the agents' record. -/
theorem hardwareResetSetsEveryElement : Obligations.HardwareResetSetsEveryElement := by
  intro s es he
  refine ⟨hardwareReset (s.setPending es), by rw [step_cons he, perform_reset], rfl, rfl, rfl, rfl,
    Sticky.has_empty, rfl, rfl, ?_, fun r hid hint => ?_⟩
  · rw [hardwareReset, readView_setEnv, intStat_reset]
  · rw [hardwareReset, readView_setEnv, readView_reset hid hint]

/-! ## RX_DATA -/

theorem popFifo_of_empty {s : State} (h : s.rxq = []) : popFifo s = s := by
  rw [popFifo, h, List.tail_nil, ← h, State.setRxq_self]

/-- Settles O42: the read answers the view and then pops. -/
theorem rxDataReadPopsTheFifo : Obligations.RxDataReadPopsTheFifo := by
  intro s es he
  have hread : step s = .next ((popFifo (s.setPending es)).answer (.ok (rxData s.rxq))) :=
    (step_cons he).trans (bus_read .rxData (s.setPending es))
  constructor
  · intro b q hq
    rw [hread, popFifo, State.setPending_rxq, hq]
    rfl
  · intro hq
    rw [hread, popFifo_of_empty (s := s.setPending es) hq, hq]
    rfl

/-! ## STATUS -/

theorem status_txActive (s : State) : (status s).getLsbD 0 = s.tx.active.isSome := by
  rw [status, BitVec.getLsbD_setWidth, BitVec.getLsbD_append]
  simp

theorem status_txPend (s : State) : (status s).getLsbD 1 = s.tx.pending.isSome := by
  rw [status, BitVec.getLsbD_setWidth, BitVec.getLsbD_append, BitVec.getLsbD_append]
  simp

theorem status_rxState (s : State) : (status s).extractLsb' 2 2 = s.rx.state.code := by
  rw [status, BitVec.extractLsb'_setWidth_of_le (by decide), BitVec.extractLsb'_append_eq_of_le (by decide),
    BitVec.extractLsb'_append_eq_of_le (by decide), BitVec.extractLsb'_append_eq_right]

theorem status_rxqCount (s : State) : (status s).extractLsb' 4 4 = BitVec.ofNat 4 s.rxq.length := by
  rw [status, BitVec.extractLsb'_setWidth_of_le (by decide), BitVec.extractLsb'_append_eq_of_le (by decide),
    BitVec.extractLsb'_append_eq_of_le (by decide), BitVec.extractLsb'_append_eq_left]

/-- Bits 31:8 of STATUS read 0 (R24). -/
theorem status_high (s : State) : (status s).extractLsb' 8 24 = 0 := by
  apply BitVec.eq_of_getLsbD_eq
  intro i hi
  simp [status]

/-- Settles O46. -/
theorem statusShowsTheEngines : Obligations.StatusShowsTheEngines := by
  intro s hq
  have hcount : s.rxq.length < 2 ^ 4 := by omega
  refine ⟨?_, ?_, ?_, ?_, status_high s⟩
  · rw [readView, status_txActive, Option.isSome_iff_ne_none]
  · rw [readView, status_txPend, Option.isSome_iff_ne_none]
  · rw [readView, status_rxState]
    cases s.rx.state <;> rfl
  · rw [readView, status_rxqCount, BitVec.toNat_ofNat, Nat.mod_eq_of_lt hcount]

/-- Settles O48. -/
theorem positionAndIndexViews : Obligations.PositionAndIndexViews := by
  intro s
  refine ⟨fun f hf => ?_, fun hnone => ?_, BitVec.toNat_ofNat _ _, rfl, rfl⟩
  · rw [readView, txPos, hf, BitVec.toNat_ofNat]
  · rw [readView, txPos, hnone]

/-! ## INT_STAT and IRQ -/

/-- A bit number is a cause's, a level's, or one of the bits that read 0 (R30). -/
theorem intStat_bit_cases (i : Nat) : (∃ c : Cause, i = c.code) ∨ i = 1 ∨ i = 2 ∨ 10 ≤ i := by
  rcases Nat.lt_or_ge i 10 with h | h
  · interval_cases i
    · exact .inl ⟨.txDone, rfl⟩
    · exact .inr (.inl rfl)
    · exact .inr (.inr (.inl rfl))
    · exact .inl ⟨.rxStart, rfl⟩
    · exact .inl ⟨.ambig, rfl⟩
    · exact .inl ⟨.rxOvf, rfl⟩
    · exact .inl ⟨.txOvf, rfl⟩
    · exact .inl ⟨.trunc, rfl⟩
    · exact .inl ⟨.cfgErr, rfl⟩
    · exact .inl ⟨.badCmd, rfl⟩
  · exact .inr (.inr (.inr h))

/-- Raising a cause sets the bit of its code in INT_STAT and no other (R126, R132). -/
theorem intStat_raise (c : Cause) (s : State) (i : Nat) :
    (intStat (raise c s)).getLsbD i = (i == c.code || (intStat s).getLsbD i) := by
  obtain ⟨hne1, hne2⟩ := c.code_not_level
  rcases intStat_bit_cases i with ⟨d, rfl⟩ | rfl | rfl | hi
  · have hcode : (d.code == c.code) = decide (c = d) := by
      rw [beq_eq_decide, decide_eq_decide]
      exact ⟨fun h => (Cause.code_injective h).symm, fun h => h ▸ rfl⟩
    rw [intStat_sticky, intStat_sticky, raise_sticky, Sticky.has_set, hcode, Bool.or_comm]
  · rw [intStat_txRdy, intStat_txRdy, beq_false_of_ne hne1.symm]
    rfl
  · rw [intStat_rxAvl, intStat_rxAvl, beq_false_of_ne hne2.symm]
    rfl
  · have hne : i ≠ c.code := by have := c.code_lt; omega
    rw [intStat_high _ hi, intStat_high _ hi, beq_false_of_ne hne]
    rfl

/-- Settles O49. -/
theorem intStatBits : Obligations.IntStatBits := by
  refine ⟨fun s => ⟨intStat_sticky s .txDone, ?_, ?_, intStat_sticky s .rxStart, intStat_sticky s .ambig,
    intStat_sticky s .rxOvf, intStat_sticky s .txOvf, intStat_sticky s .trunc, intStat_sticky s .cfgErr,
    intStat_sticky s .badCmd, fun i hi => intStat_high s hi⟩, rfl, fun s c i => intStat_raise c s i⟩
  · rw [readView, intStat_txRdy, txRdy, Option.isNone_iff_eq_none]
  · rw [readView, intStat_rxAvl, rxAvl]
    simp

/-- Settles O50. -/
theorem irqIsTheOrOfEnabledCauses : Obligations.IrqIsTheOrOfEnabledCauses := by
  intro s
  have henabled : ∀ i < 10, (readView .irqEn s).getLsbD i = s.regs.irqEn.getLsbD i := fun i hi => by
    simp [readView, hi.trans (by decide : 10 < 32)]
  simp only [irq, List.any_eq_true, List.mem_range, Bool.and_eq_true]
  refine exists_congr fun i => and_congr_right fun hi => ?_
  rw [henabled i hi]
  rfl

end Sys2Proof.Machine
end

section
/-! SUPPORT. What the host's READ and WRITE of each register do (20_memory.md). -/

namespace Sys2Proof

/-- The fields of a command decode to it (R68, R69). -/
@[simp] theorem Instr.decode_fields (i : Instr) : i.fields.decode = .command i := by
  cases i <;> rfl

/-- A command is read back from its word (R64). -/
@[simp] theorem decode_encode (i : Instr) : decode (encode i) = .command i := by
  rw [decode, ofWord_encode, Instr.decode_fields]

/-- A whole word placed as a table row's word is that word. -/
@[simp] theorem commandWord_toNat (v : Word) : commandWord 32 v.toNat = v := by
  rw [commandWord, Nat.mod_eq_of_lt v.isLt, BitVec.ofNat_toNat, BitVec.setWidth_eq]

namespace Machine

variable {s t : State} {es : List Event} {r : Reg}

/-! ## The step that is a bus transaction -/

/-- No register shows the agents' coming steps. -/
@[simp] theorem readView_setPending (r : Reg) (s : State) (es : List Event) :
    readView r (s.setPending es) = readView r s :=
  readView_setEnv r s _

/-- No register shows the answers given. -/
@[simp] theorem readView_answer (r : Reg) (s : State) (a : Answer) : readView r (s.answer a) = readView r s :=
  readView_setEnv r s _

/-- The step that is a READ of a mapped word (R46, R51). -/
theorem step_read (he : s.env.pending = .bus (.read r.offset 4) :: es) :
    step s = .next ((readEffect r (s.setPending es)).answer (.ok (readView r s))) := by
  rw [step_cons he, perform_bus, bus_read, readView_setPending]

/-- The step that is a WRITE of a mapped word (R47 to R50). -/
theorem step_write {v : Word} (he : s.env.pending = .bus (.write r.offset 4 v) :: es) :
    step s = andThen (writeEffect r v (s.setPending es)) fun t => t.answer (.ok 0) := by
  rw [step_cons he, perform_bus, bus_write]

theorem writeEffect_rw (h : r.access = .rw) (v : Word) (s : State) :
    writeEffect r v s = .next (s.setRegs (writeRegs r v s.regs)) := by
  rw [writeEffect, h]

theorem writeEffect_ro (h : r.access = .ro) (v : Word) (s : State) : writeEffect r v s = .next s := by
  rw [writeEffect, h]

@[simp] theorem writeEffect_intStat (v : Word) (s : State) :
    writeEffect .intStat v s = .next (acknowledge v s) := rfl

/-- A write of a command's word to CMD runs the command (R50). -/
theorem writeEffect_cmd {v : Word} {i : Instr} (h : decode v = .command i) (s : State) :
    writeEffect .cmd v s = exec i s := by
  rw [show writeEffect .cmd v s = command v s from rfl, command, h]

/-- The step that is a WRITE of a command's word to CMD (R50). -/
theorem step_command {v : Word} {i : Instr} (he : s.env.pending = commandWrite v :: es)
    (hv : decode v = .command i) : step s = andThen (exec i (s.setPending es)) fun t => t.answer (.ok 0) := by
  rw [step_write he, writeEffect_cmd hv]

/-- Settles O5: `withFetchWord` places a write of the encoding, which decodes to the command. -/
theorem stepRunsTheWrittenCommand : Obligations.StepRunsTheWrittenCommand := by
  refine ⟨fun s es v i he hv => step_command he hv, fun s i => ?_⟩
  have hpending : (s.withFetchWord 32 (encode i).toNat).env.pending = commandWrite (encode i) :: s.env.pending := by
    rw [State.withFetchWord, State.setPending_env_pending, commandWord_toNat]
  exact step_command hpending (decode_encode i)

/-- Settles O41: a READ of a register that is not RX_DATA has no side effect. -/
theorem readsAnswerTheViewAndChangeNothing : Obligations.ReadsAnswerTheViewAndChangeNothing := by
  refine ⟨fun s es r hr he => ?_, fun s => ⟨rfl, rfl⟩, rfl, rfl, rfl, rfl⟩
  rw [step_read he, readEffect, if_neg hr]

/-- Settles O44: the listed registers are the read-only ones. -/
theorem readOnlyRegistersIgnoreWrites : Obligations.ReadOnlyRegistersIgnoreWrites := by
  intro s es r v hr he
  have hro : r.access = .ro := by
    revert hr
    cases r <;> decide
  rw [step_write he, writeEffect_ro hro, andThen_next]

/-! ## Which transactions are answered ERR -/

/-- A transaction reaches a register exactly when it is a whole aligned word at a mapped offset (R45). -/
theorem exists_target_iff {off size : Nat} :
    (∃ r, target off size = some r) ↔ size = 4 ∧ off % 4 = 0 ∧ off ∈ Reg.all.map Reg.offset := by
  simp only [target_eq_some, List.mem_map]
  constructor
  · rintro ⟨r, hsize, rfl⟩
    exact ⟨hsize, r.offset_aligned, r, r.mem_all, rfl⟩
  · rintro ⟨hsize, -, r, -, hr⟩
    exact ⟨r, hsize, hr⟩

/-- No command touches the agents' record. -/
theorem Executes.env {i : Instr} (h : Executes i s t) : t.env = s.env := by
  cases h <;> rfl

/-- A command always gives a next state (R125). -/
theorem exec_next (i : Instr) (s : State) : ∃ t, exec i s = .next t := by
  cases i with
  | nop | txAbort | rxStop | rxFifoClear | softReset => exact ⟨_, rfl⟩
  | txSend b =>
    rcases execTxSend_cases s b with ⟨_, he⟩ | ⟨_, _, he⟩ | ⟨_, _, _, he⟩ | ⟨_, _, _, he⟩ <;> exact ⟨_, he⟩
  | rxStart => rcases execRxStart_cases s with ⟨_, he⟩ | ⟨_, he⟩ <;> exact ⟨_, he⟩

/-- A write to CMD always gives a next state, and leaves the agents' record (R50, R70). -/
theorem command_next (v : Word) (s : State) : ∃ t, command v s = .next t ∧ t.env = s.env := by
  rcases hv : decode v with i | why
  · obtain ⟨t, ht⟩ := exec_next i s
    exact ⟨t, by rw [command, hv]; exact ht, (executes_of_exec ht).env⟩
  · exact ⟨raise .badCmd s, by rw [command, hv], rfl⟩

/-- A write to a register always gives a next state, and leaves the agents' record (R47 to R50). -/
theorem writeEffect_next (r : Reg) (v : Word) (s : State) :
    ∃ t, writeEffect r v s = .next t ∧ t.env = s.env := by
  rcases writeEffect_cases r v s with ⟨_, he⟩ | ⟨_, he⟩ | ⟨_, he⟩ | ⟨_, he⟩ <;> rw [he]
  · exact ⟨_, rfl, rfl⟩
  · exact ⟨_, rfl, rfl⟩
  · exact command_next v s
  · exact ⟨_, rfl, rfl⟩

@[simp] theorem readEffect_env (r : Reg) (s : State) : (readEffect r s).env = s.env := by
  unfold readEffect
  split <;> rfl

/-- A transaction that reaches a register is answered OK (R44, R45). -/
theorem bus_ok {tr : Transaction} {off size : Nat} (htr : tr = .read off size ∨ ∃ v, tr = .write off size v)
    (h : target off size = some r) (s : State) :
    ∃ u rdata, bus tr s = .next u ∧ u.env.answers = s.env.answers ++ [.ok rdata] := by
  obtain ⟨rfl, rfl⟩ := target_eq_some.1 h
  rcases htr with rfl | ⟨v, rfl⟩
  · exact ⟨_, _, bus_read r s, by rw [State.answer_env_answers, readEffect_env]⟩
  · obtain ⟨t, ht, henv⟩ := writeEffect_next r v s
    exact ⟨t.answer (.ok 0), 0, by rw [bus_write, ht, andThen_next], by rw [State.answer_env_answers, henv]⟩

/-- A transaction that reaches no register is answered ERR, and nothing else changes (R45). -/
theorem bus_err {tr : Transaction} {off size : Nat} (htr : tr = .read off size ∨ ∃ v, tr = .write off size v)
    (h : target off size = none) (s : State) : bus tr s = .next (s.answer .err) := by
  rcases htr with rfl | ⟨v, rfl⟩
  · exact bus_read_err h s
  · exact bus_write_err v h s

/-- Settles O40: whether the transaction reaches a register decides its answer. -/
theorem busAnswersErrExactlyWhenUnmapped : Obligations.BusAnswersErrExactlyWhenUnmapped := by
  refine ⟨rfl, fun s es tr off size htr he => ⟨fun hmapped => ?_, fun hunmapped => ?_⟩⟩ <;>
    rw [step_cons he, perform_bus]
  · obtain ⟨r, hr⟩ := exists_target_iff.2 hmapped
    exact bus_ok htr hr (s.setPending es)
  · have hnone : target off size = none :=
      Option.eq_none_iff_forall_ne_some.2 fun r hr => hunmapped (exists_target_iff.1 ⟨r, hr⟩)
    exact bus_err htr hnone (s.setPending es)

/-! ## INT_STAT -/

/-- Acknowledging clears the sticky bits written as 1 and leaves the two levels (R49). -/
theorem intStat_acknowledge (v : Word) (s : State) (i : Nat) :
    (intStat (acknowledge v s)).getLsbD i =
      if i = 1 ∨ i = 2 then (intStat s).getLsbD i else (intStat s).getLsbD i && !v.getLsbD i := by
  rcases intStat_bit_cases i with ⟨c, rfl⟩ | rfl | rfl | hi
  · obtain ⟨hne1, hne2⟩ := c.code_not_level
    rw [if_neg (by simp [hne1, hne2]), intStat_sticky, intStat_sticky, acknowledge_sticky, Sticky.has_clear]
  · rw [if_pos (.inl rfl), intStat_txRdy, intStat_txRdy]
    rfl
  · rw [if_pos (.inr rfl), intStat_rxAvl, intStat_rxAvl]
    rfl
  · rw [intStat_high _ hi, intStat_high _ hi, Bool.false_and, ite_self]

/-- Settles O45. -/
theorem intStatWriteClearsWrittenOnes : Obligations.IntStatWriteClearsWrittenOnes := by
  intro s es v he
  refine ⟨s.sticky.clear v, ?_, intStat_acknowledge v s⟩
  rw [step_write (r := .intStat) he, writeEffect_intStat, andThen_next]
  rfl

/-! ## Configuration writes -/

/-- The low `k` bits of a word, as a mask takes them. -/
theorem setWidth_setWidth_eq_and (k : Nat) (v : Word) :
    (v.setWidth k).setWidth 32 = v &&& BitVec.ofNat 32 (2 ^ k - 1) := by
  refine BitVec.eq_of_getLsbD_eq fun i hi => ?_
  simp only [BitVec.getLsbD_setWidth, BitVec.getLsbD_and, BitVec.getLsbD_ofNat, Nat.testBit_two_pow_sub_one, hi,
    decide_true, Bool.true_and, Bool.and_comm]

/-- The DZ_MODE field after a write, as its code (R20). -/
theorem DzMode.code_write (f : BitVec 2) (old : DzMode) :
    (DzMode.write f old).code = if f = 3 then old.code else f := by
  revert f
  cases old <;> decide

/-- CTRL's five bits, from bit 0 (R19). -/
theorem Ctrl.word_eq_bitsWord (c : Ctrl) :
    c.word = bitsWord [c.cz, c.thrAuto, c.dzMode.code.getLsbD 0, c.dzMode.code.getLsbD 1, c.rxInv] := by
  obtain ⟨cz, thrAuto, dzMode, rxInv⟩ := c
  revert cz thrAuto rxInv
  cases dzMode <;> decide

/-- What CTRL reads after a write of `v` (R19, R20). -/
theorem Ctrl.word_write (v : Word) (c : Ctrl) :
    (c.write v).word = (v &&& 0x13#32) |||
      (if v.extractLsb' 2 2 = 3 then c.word &&& 0x0C#32 else v &&& 0x0C#32) := by
  have hflags : (0x13#32 : Word) = bitsWord [true, true, false, false, true] := by decide
  have hdz : (0x0C#32 : Word) = bitsWord [false, false, true, true, false] := by decide
  rw [word_eq_bitsWord, word_eq_bitsWord, Ctrl.write, DzMode.code_write, hflags, hdz]
  refine BitVec.eq_of_getLsbD_eq fun i hi => ?_
  split <;> simp only [BitVec.getLsbD_or, BitVec.getLsbD_and, getLsbD_bitsWord, hi, decide_true, Bool.true_and] <;>
    rcases i with _ | _ | _ | _ | _ | i <;> simp

@[simp] theorem status_setRegs (s : State) (c : Regs) : status (s.setRegs c) = status s := rfl
@[simp] theorem intStat_setRegs (s : State) (c : Regs) : intStat (s.setRegs c) = intStat s := rfl

/-- A configuration write changes the view of no other register (R47): each write sets one field, and no other
register's view is of that field. -/
theorem readView_writeRegs_of_ne {q : Reg} (h : q ≠ r) (v : Word) (s : State) :
    readView q (s.setRegs (writeRegs r v s.regs)) = readView q s := by
  cases r with
  | id | status | cmd | intStat | txPos | rxPos | rxData | rxAcc | ambigIdx | rxThrEff => rfl
  | ctrl | irqEn | aLow | aHigh | carNum | carDen | txLen | slotLen | preLen | rxThresh | dzLo | dzHi
  | rxSlotLen | rxOffset | rxSkip | rxFrameLen => cases q <;> simp_all [readView, writeRegs]

/-- A configuration register of no narrower field stores the whole word (R22, R23, R26, R27). -/
theorem readView_writeRegs_whole (hrw : r.access = .rw)
    (h : r ∉ [Reg.ctrl, .irqEn, .aLow, .aHigh, .preLen, .rxSkip]) (v : Word) (s : State) :
    readView r (s.setRegs (writeRegs r v s.regs)) = v := by
  cases r with
  | carNum | carDen | txLen | slotLen | rxThresh | dzLo | dzHi | rxSlotLen | rxOffset | rxFrameLen => rfl
  | ctrl | irqEn | aLow | aHigh | preLen | rxSkip => exact absurd (by decide) h
  | id | status | cmd | intStat | txPos | rxPos | rxData | rxAcc | ambigIdx | rxThrEff => cases hrw

/-- Settles O43: the step sets the register file only, and each view is of one field. -/
theorem configurationWriteStoresItsFieldsOnly : Obligations.ConfigurationWriteStoresItsFieldsOnly := by
  intro s es r v hrw he
  have hstep : step s = .next (((s.setPending es).setRegs (writeRegs r v s.regs)).answer (.ok 0)) := by
    rw [step_write he, writeEffect_rw hrw, andThen_next, State.setPending_regs]
  refine ⟨_, hstep, rfl, ?_, ?_, ?_, ?_, ?_, ?_, rfl, rfl, rfl, rfl, rfl⟩
  · rintro rfl
    exact Ctrl.word_write v s.regs.ctrl
  · rintro rfl
    exact setWidth_setWidth_eq_and 10 v
  · rintro (rfl | rfl) <;> rfl
  · rintro (rfl | rfl) <;> exact setWidth_setWidth_eq_and 8 v
  · intro hwhole
    rw [readView_answer]
    exact readView_writeRegs_whole hrw hwhole v (s.setPending es)
  · intro q hq
    rw [readView_answer, ← readView_setPending q s es]
    exact readView_writeRegs_of_ne hq v (s.setPending es)

/-! ## The address window -/

/-- An address at or above the base is its offset in the window (R56). -/
@[simp] theorem windowOffset_add (base off : Nat) : windowOffset base (base + off) = some off := by
  simp [windowOffset]

theorem windowOffset_below {base addr : Nat} (h : addr < base) : windowOffset base addr = none :=
  if_neg (Nat.not_le.2 h)

/-- Settles O59. -/
theorem windowIsPlacedAtItsBase : Obligations.WindowIsPlacedAtItsBase := by
  intro base off size addr v
  refine ⟨?_, ?_, fun h => ⟨?_, ?_⟩⟩
  · rw [hostRead, windowOffset_add, Option.map_some]
  · rw [hostWrite, windowOffset_add, Option.map_some]
  · rw [hostRead, windowOffset_below h, Option.map_none]
  · rw [hostWrite, windowOffset_below h, Option.map_none]

end Machine

end Sys2Proof
end

section
/-! SUPPORT. Which words the decoder reads as which command, and which it refuses (30_encoding.md). -/

namespace Sys2Proof

/-! ## Both directions -/

theorem decode_eq_command_iff {v : Word} {i : Instr} : decode v = .command i ↔ encode i = v :=
  ⟨encode_of_decode, fun h => h ▸ decode_encode i⟩

/-- Settles O1. -/
theorem decodeInvertsEncode : Obligations.DecodeInvertsEncode :=
  ⟨decode_encode, fun _ _ => encode_of_decode⟩

/-! ## The patterns of R68 -/

theorem FormatC.toWord_inj {f g : FormatC} : f.toWord = g.toWord ↔ f = g :=
  (Function.LeftInverse.injective FormatC.ofWord_toWord).eq_iff

/-- The mask of a command without an operand keeps the whole word. -/
theorem decode_eq_command_iff_full_mask (v : Word) (i : Instr) :
    decode v = .command i ↔ v &&& 0xFFFFFFFF#32 = encode i := by
  have hmask : v &&& 0xFFFFFFFF#32 = v := BitVec.and_allOnes
  rw [hmask, decode_eq_command_iff, eq_comm]

/-- TX_SEND's mask keeps OP and MBZ and drops ARG (R65). -/
theorem FormatC.toWord_and_opMbzMask (f : FormatC) :
    f.toWord &&& 0xFFFFFF00#32 = FormatC.toWord { f with arg := 0 } := by
  have hmask : 0xFFFFFF00#32 = BitVec.allOnes 8 ++ BitVec.allOnes 16 ++ 0#8 := rfl
  have hfields : (f.op ++ f.mbz ++ f.arg) &&& (BitVec.allOnes 8 ++ BitVec.allOnes 16 ++ 0#8) =
      f.op ++ f.mbz ++ 0#8 := by
    rw [BitVec.and_append, BitVec.and_append, BitVec.and_allOnes, BitVec.and_allOnes, BitVec.and_zero]
  rw [hmask]
  exact hfields

/-- ARG is the low byte of the word (R65). -/
theorem ofWord_arg (v : Word) : (FormatC.ofWord v).arg = v.setWidth 8 := by
  rw [BitVec.setWidth_eq_extractLsb' (by decide)]
  rfl

/-- TX_SEND's row of R68: OP and MBZ match, and ARG is the operand. -/
theorem decode_eq_txSend_iff (v : Word) (b : Byte) :
    decode v = .command (.txSend b) ↔ v &&& 0xFFFFFF00#32 = encode (.txSend 0) ∧ b = v.setWidth 8 := by
  rw [decode_eq_command_iff, ← ofWord_arg]
  obtain ⟨f, rfl⟩ : ∃ f : FormatC, f.toWord = v := ⟨_, FormatC.toWord_ofWord v⟩
  rw [FormatC.toWord_and_opMbzMask, FormatC.ofWord_toWord, encode, encode, FormatC.toWord_inj, FormatC.toWord_inj]
  obtain ⟨op, mbz, arg⟩ := f
  simp only [Instr.fields, FormatC.mk.injEq]
  grind

/-- Settles O2: one row of R68 after the other. -/
theorem validWordsAreTheSevenPatterns : Obligations.ValidWordsAreTheSevenPatterns := fun v =>
  have row := decode_eq_command_iff_full_mask v
  ⟨row .nop, decode_eq_txSend_iff v, row .txAbort, row .rxStart, row .rxStop, row .rxFifoClear, row .softReset⟩

/-! ## Illegal words (R70) -/

/-- The values of OP that are not reserved (R71). -/
theorem op_cases_of_le {op : Byte} (h : op.toNat ≤ 6) :
    op = 0 ∨ op = 1 ∨ op = 2 ∨ op = 3 ∨ op = 4 ∨ op = 5 ∨ op = 6 := by
  bv_omega

/-- The checks on the fields, as propositions (R65, R70). -/
theorem FormatC.wellFormed_iff {f : FormatC} :
    f.wellFormed = true ↔ f.mbz = 0 ∧ (f.op = 1 ∨ f.arg = 0) ∧ f.op.toNat ≤ 6 := by
  simp [wellFormed, mbzZero, argAllowed, opDefined, and_assoc]

theorem Instr.fields_wellFormed (i : Instr) : i.fields.wellFormed = true := by
  cases i <;> rfl

/-- Fields that pass the checks are a command's (R68, R70). -/
theorem FormatC.exists_fields_of_wellFormed {f : FormatC} (h : f.wellFormed = true) : ∃ i : Instr, f = i.fields := by
  obtain ⟨hmbz, harg, hop⟩ := wellFormed_iff.1 h
  obtain ⟨op, mbz, arg⟩ := f
  obtain rfl : mbz = 0 := hmbz
  by_cases hsend : op = 1
  · exact ⟨.txSend arg, by rw [hsend]; rfl⟩
  · obtain rfl : arg = 0 := harg.resolve_left hsend
    rcases op_cases_of_le hop with rfl | rfl | rfl | rfl | rfl | rfl | rfl
    · exact ⟨.nop, rfl⟩
    · exact absurd rfl hsend
    · exact ⟨.txAbort, rfl⟩
    · exact ⟨.rxStart, rfl⟩
    · exact ⟨.rxStop, rfl⟩
    · exact ⟨.rxFifoClear, rfl⟩
    · exact ⟨.softReset, rfl⟩

/-- The decoder refuses exactly the fields that fail a check (R69, R70). -/
theorem FormatC.exists_decode_invalid_iff {f : FormatC} :
    (∃ why, f.decode = .invalid why) ↔ ¬ f.wellFormed = true := by
  constructor
  · rintro ⟨why, hwhy⟩ hwf
    obtain ⟨i, rfl⟩ := exists_fields_of_wellFormed hwf
    rw [Instr.decode_fields] at hwhy
    cases hwhy
  · intro hwf
    rcases hf : f.decode with i | why
    · rw [eq_fields_of_decode hf] at hwf
      exact absurd i.fields_wellFormed hwf
    · exact ⟨why, rfl⟩

/-- The illegal words as R70 lists them. -/
theorem exists_decode_invalid_iff (v : Word) :
    (∃ why, decode v = .invalid why) ↔
      0x07 ≤ (v.extractLsb' 24 8).toNat ∨ v.extractLsb' 8 16 ≠ 0 ∨
        (v.extractLsb' 0 8 ≠ 0 ∧ v.extractLsb' 24 8 ≠ 0x01) := by
  have hop : ¬ (v.extractLsb' 24 8).toNat ≤ 6 ↔ 0x07 ≤ (v.extractLsb' 24 8).toNat := by omega
  have hfields : (∃ why, decode v = .invalid why) ↔ ¬ (v.extractLsb' 8 16 = 0 ∧
      (v.extractLsb' 24 8 = 1 ∨ v.extractLsb' 0 8 = 0) ∧ (v.extractLsb' 24 8).toNat ≤ 6) :=
    FormatC.exists_decode_invalid_iff.trans (not_congr FormatC.wellFormed_iff)
  rw [hfields, ← hop]
  tauto

namespace Machine

variable {s : State} {es : List Event} {v : Word} {why : Invalid}

/-- A write of an illegal word to CMD raises BADCMD and does nothing else (R70). -/
theorem writeEffect_cmd_of_invalid (h : decode v = .invalid why) (s : State) :
    writeEffect .cmd v s = .next (raise .badCmd s) := by
  rw [show writeEffect .cmd v s = command v s from rfl, command, h]

/-- The step that is a WRITE of an illegal word to CMD (R70). -/
theorem step_badCommand (he : s.env.pending = commandWrite v :: es) (h : decode v = .invalid why) :
    step s = .next ((raise .badCmd (s.setPending es)).answer (.ok 0)) := by
  rw [step_write he, writeEffect_cmd_of_invalid h, andThen_next]

/-- Settles O3. -/
theorem illegalCommandRaisesBadCmdOnly : Obligations.IllegalCommandRaisesBadCmdOnly := fun v =>
  ⟨exists_decode_invalid_iff v, fun _ _ _ he h => step_badCommand he h⟩

end Machine

/-! ## Words written out -/

/-- Settles O4: the valid words are encodings; the others are evaluated. -/
theorem specWordsDecodeAsListed : Obligations.SpecWordsDecodeAsListed := by
  refine ⟨decode_encode .nop, decode_encode (.txSend 0x48), decode_encode (.txSend 0xFF), decode_encode .txAbort,
    decode_encode .rxStart, decode_encode .rxStop, decode_encode .rxFifoClear, decode_encode .softReset, ?_⟩
  decide

end Sys2Proof
end

section
/-! SUPPORT. What TX_SEND, TX_ABORT and the TX sink's step do to the whole state, and how a run of PULLs
emits its frames (40_modulator.md, section 2). -/

namespace Sys2Proof.Machine

variable {s : State} {es : List Event}

/-! ## TX_SEND and TX_ABORT -/

@[simp] theorem exec_txSend (b : Byte) (s : State) : exec (.txSend b) s = execTxSend b s := rfl

/-- The check of R84 on the snapshot, as a condition on the registers. -/
theorem txConfigOk_latchTx_iff (r : Regs) :
    txConfigOk (latchTx r) = true ↔
      r.slotLen ≠ 0 ∧ r.carDen ≠ 0 ∧ r.txLen ≠ 0 ∧ r.aLow.toInt < r.aHigh.toInt :=
  txConfigOk_iff (latchTx r)

/-- A TX_SEND that fails its check raises CFGERR only (R84, R88). -/
theorem execTxSend_refused (b : Byte) (bad : ¬ txConfigOk (latchTx s.regs) = true) :
    execTxSend b s = .next (raise .cfgErr s) := by
  rcases execTxSend_cases s b with ⟨_, he⟩ | ⟨ok, _⟩ | ⟨ok, _⟩ | ⟨ok, _⟩
  · exact he
  all_goals exact absurd ok bad

/-- A checked TX_SEND behind a pending frame raises TXOVF only (R86, R88). -/
theorem execTxSend_dropped (b : Byte) (ok : txConfigOk (latchTx s.regs) = true) {f : PendingFrame}
    (full : s.tx.pending = some f) : execTxSend b s = .next (raise .txOvf s) := by
  rcases execTxSend_cases s b with ⟨bad, _⟩ | ⟨_, _, he⟩ | ⟨_, free, _⟩ | ⟨_, free, _⟩
  · exact absurd (ok.symm.trans bad) (by decide)
  · exact he
  all_goals exact absurd (full.symm.trans free) (by simp)

/-- A checked TX_SEND with no frame pending queues its snapshot, and raises TRUNC when the frame is too
short (R86, R87, R88). -/
theorem execTxSend_accepted (b : Byte) (ok : txConfigOk (latchTx s.regs) = true) (free : s.tx.pending = none) :
    execTxSend b s = .next ((s.setSticky
      (if tooShort (latchTx s.regs) then s.sticky.set .trunc else s.sticky)).setTx
        (queueFrame b (latchTx s.regs) s.tx)) := by
  rcases execTxSend_cases s b with ⟨bad, _⟩ | ⟨_, full, _⟩ | ⟨_, _, short, he⟩ | ⟨_, _, whole, he⟩
  · exact absurd (ok.symm.trans bad) (by decide)
  · simp [free] at full
  · rw [he, short]; rfl
  · rw [he, whole]; rfl

/-- Where an accepted frame goes: it starts when none is active, and is pending otherwise (R86). -/
theorem queueFrame_of_free {t : TxEngine} (b : Byte) (p : TxParams) (free : t.pending = none) :
    queueFrame b p t = if t.active = none then ⟨some ⟨b, p, 0⟩, none⟩ else ⟨t.active, some ⟨b, p⟩⟩ := by
  unfold queueFrame
  rcases hact : t.active with _ | f
  · simp [free]
  · simp

/-- Settles O13: the snapshot is `latchTx`, queued by the rule for an accepted TX_SEND. -/
theorem txSendAccepted : Obligations.TxSendAccepted := by
  intro s b hS hfs hN hlevels free
  have ok : txConfigOk (latchTx s.regs) = true := (txConfigOk_latchTx_iff s.regs).2 ⟨hS, hfs, hN, hlevels⟩
  refine ⟨latchTx s.regs, rfl, ?_⟩
  rw [exec_txSend, execTxSend_accepted b ok free, queueFrame_of_free b _ free]
  simp only [tooShort_iff]
  rfl

/-- Settles O14: each of the four conditions fails the check. -/
theorem txSendRefusedOnBadConfiguration : Obligations.TxSendRefusedOnBadConfiguration := by
  intro s b hbad
  refine execTxSend_refused b fun ok => ?_
  obtain ⟨hS, hfs, hN, hlevels⟩ := (txConfigOk_latchTx_iff s.regs).1 ok
  rcases hbad with h | h | h | h
  · exact hS h
  · exact hfs h
  · exact hN h
  · exact h hlevels

/-- Settles O15. -/
theorem txSendDroppedWhilePending : Obligations.TxSendDroppedWhilePending :=
  fun s b _ hS hfs hN hlevels full =>
    execTxSend_dropped b ((txConfigOk_latchTx_iff s.regs).2 ⟨hS, hfs, hN, hlevels⟩) full

/-- TX_POS reads 0 while no frame is active (R25). -/
theorem readView_txPos_of_idle (h : s.tx.active = none) : readView .txPos s = 0 := by
  simp [readView, txPos, h]

/-- Settles O16: TX_ABORT empties both slots, so no frame is active when TX_POS is read. -/
theorem txAbortDropsBothFrames : Obligations.TxAbortDropsBothFrames :=
  ⟨decode_encode .txAbort, fun s => ⟨s.setTx TxEngine.empty, rfl, rfl, readView_txPos_of_idle rfl⟩⟩

/-! ## One PULL -/

/-- A PULL with no active frame changes nothing (R89, R91). -/
theorem pull_of_idle (h : s.tx.active = none) : pull s = s := by
  simp [pull, h]

/-- The end of a frame as one state (R90). -/
theorem frameEnd_eq (s : State) :
    frameEnd s = (raise .txDone s).setTx ⟨s.tx.pending.map fun g => ⟨g.b, g.p, 0⟩, none⟩ := by
  rcases frameEnd_cases s with ⟨hp, he⟩ | ⟨g, hp, he⟩ <;> rw [he, hp] <;> rfl

/-- A PULL with an active frame, as one state (R89, R90). -/
theorem pull_of_active {f : ActiveFrame} (h : s.tx.active = some f) :
    pull s = { s with
      env := { s.env with emitted := s.env.emitted ++ [sampleWord f.b f.p f.n] }
      sticky := if f.n + 1 = f.p.N.toNat then s.sticky.set .txDone else s.sticky
      tx :=
        if f.n + 1 = f.p.N.toNat then ⟨s.tx.pending.map fun g => ⟨g.b, g.p, 0⟩, none⟩
        else ⟨some ⟨f.b, f.p, f.n + 1⟩, s.tx.pending⟩ } := by
  rcases pull_cases s with ⟨hidle, _⟩ | ⟨g, hg, hn, he⟩ | ⟨g, hg, hn, he⟩
  · cases h.symm.trans hidle
  · cases h.symm.trans hg
    rw [he, if_neg hn, if_neg hn]
    rfl
  · cases h.symm.trans hg
    rw [he, frameEnd_eq, if_pos hn, if_pos hn]
    rfl

/-- The step that is the TX sink's (R55, R89). -/
theorem step_pull (he : s.env.pending = .pull :: es) : step s = .next (pull (s.setPending es)) := by
  rw [step_cons he, perform_pull]

/-- Settles O17. -/
theorem pullEmitsTheNextSample : Obligations.PullEmitsTheNextSample := by
  intro s es f he hf
  have hf' : (s.setPending es).tx.active = some f := hf
  rw [step_pull he, pull_of_active hf']
  rfl

/-- Settles O18. -/
theorem pullWithoutFrameEmitsNothing : Obligations.PullWithoutFrameEmitsNothing := by
  intro s es he hidle
  have hidle' : (s.setPending es).tx.active = none := hidle
  rw [step_pull he, pull_of_idle hidle']

/-! ## A run of PULLs -/

theorem pulls_succ (j : Nat) (s : State) : pulls (j + 1) s = pull (pulls j s) :=
  Function.iterate_succ_apply' pull j s

theorem pulls_add (j k : Nat) (s : State) : pulls (j + k) s = pulls k (pulls j s) := by
  rw [Nat.add_comm]
  exact Function.iterate_add_apply pull k j s

@[simp] theorem length_frameWords (b : Byte) (p : TxParams) : (frameWords b p).length = p.N.toNat := by
  simp [frameWords]

/-- The first `j + 1` words of a frame are the first `j` and the word of sample `j` (R63). -/
theorem frameWords_take_succ (b : Byte) (p : TxParams) {j : Nat} (h : j < p.N.toNat) :
    (frameWords b p).take (j + 1) = (frameWords b p).take j ++ [sampleWord b p j] := by
  rw [List.take_succ_eq_append_getElem (by rwa [length_frameWords])]
  simp [frameWords]

/-- Settles O19: by induction on the PULLs; before each of them the frame's next sample exists. -/
theorem frameIsEmittedWholeAndInOrder : Obligations.FrameIsEmittedWholeAndInOrder := by
  intro s b p j hact hj hN
  induction j with
  | zero =>
    rw [if_neg hN.ne, if_neg hN.ne, List.take_zero, List.append_nil, ← hact]
    rfl
  | succ j ih =>
    have hlt : j < p.N.toNat := hj
    have hprev := ih hlt.le
    rw [if_neg hlt.ne, if_neg hlt.ne] at hprev
    have hactive : (pulls j s).tx.active = some ⟨b, p, j⟩ := by rw [hprev]
    rw [pulls_succ, pull_of_active hactive, hprev, frameWords_take_succ b p hlt, ← List.append_assoc]

/-- A whole frame's PULLs (R83, R90): all its words are out, and the pending frame, if any, has started. -/
theorem pulls_frame {b : Byte} {p : TxParams} (hact : s.tx.active = some ⟨b, p, 0⟩) (hN : 0 < p.N.toNat) :
    (pulls p.N.toNat s).env.emitted = s.env.emitted ++ frameWords b p ∧
      (pulls p.N.toNat s).tx = ⟨s.tx.pending.map fun g => ⟨g.b, g.p, 0⟩, none⟩ := by
  have hall : (frameWords b p).take p.N.toNat = frameWords b p :=
    List.take_of_length_le (length_frameWords b p).le
  rw [frameIsEmittedWholeAndInOrder s b p _ hact le_rfl hN, hall]
  exact ⟨rfl, if_pos rfl⟩

/-- Settles O20: the PULLs of the first frame leave the second at its sample 0, and those of the second
leave none. -/
theorem pendingFrameFollowsWithoutGap : Obligations.PendingFrameFollowsWithoutGap := by
  intro s b c p q hact hpend hp hq
  obtain ⟨hwords, htx⟩ := pulls_frame hact hp
  rw [hpend] at htx
  have hsecond : (pulls p.N.toNat s).tx.active = some ⟨c, q, 0⟩ := by rw [htx]; rfl
  obtain ⟨hwords', htx'⟩ := pulls_frame hsecond hq
  rw [pulls_add]
  exact ⟨by rw [hwords', hwords], by rw [htx', htx]; rfl⟩

/-! ## Neither stream touches the other side -/

/-- What a PULL leaves alone (R89, R126). -/
theorem pull_frame (s : State) :
    (pull s).regs = s.regs ∧ (pull s).rx = s.rx ∧ (pull s).rxq = s.rxq ∧ (pull s).ambigIdx = s.ambigIdx ∧
      (pull s).env.answers = s.env.answers ∧
      ∀ c, c ≠ .txDone → (pull s).sticky.has c = s.sticky.has c := by
  rcases hact : s.tx.active with _ | f
  · rw [pull_of_idle hact]
    exact ⟨rfl, rfl, rfl, rfl, rfl, fun _ _ => rfl⟩
  · rw [pull_of_active hact]
    refine ⟨rfl, rfl, rfl, rfl, rfl, fun c hc => ?_⟩
    dsimp only
    split
    · simp [hc.symm]
    · rfl

@[simp] theorem push_regs (s : State) (w : Word) : (push w s).regs = s.regs := by
  rcases push_cases s w with ⟨_, he⟩ | ⟨_, he⟩ | ⟨_, he⟩ <;> simp [he]

@[simp] theorem push_tx (s : State) (w : Word) : (push w s).tx = s.tx := by
  rcases push_cases s w with ⟨_, he⟩ | ⟨_, he⟩ | ⟨_, he⟩ <;> simp [he]

@[simp] theorem push_env (s : State) (w : Word) : (push w s).env = s.env := by
  rcases push_cases s w with ⟨_, he⟩ | ⟨_, he⟩ | ⟨_, he⟩ <;> simp [he]

/-- Raising a cause leaves every other cause's bit alone (R129). -/
theorem raise_has_of_ne {c d : Cause} (h : c ≠ d) (s : State) : (raise d s).sticky.has c = s.sticky.has c := by
  simp [h.symm]

section
variable {c : Cause}

/-- Appending a bit can raise RXOVF only (R116). -/
theorem appendBit_has (hovf : c ≠ .rxOvf) (s : State) (x : Bool) :
    (appendBit x s).sticky.has c = s.sticky.has c := by
  rcases appendBit_cases s x with ⟨_, he⟩ | ⟨_, _, he⟩ | ⟨_, _, he⟩ <;> rw [he]
  · rfl
  · rfl
  · exact raise_has_of_ne hovf _

/-- A slot decision can raise AMBIG and RXOVF only (R111, R116). -/
theorem decideSlot_has (hambig : c ≠ .ambig) (hovf : c ≠ .rxOvf) (s : State) (v : Int) (m : Nat) :
    (decideSlot v m s).sticky.has c = s.sticky.has c := by
  have hraise : (raiseAmbig m s).sticky.has c = s.sticky.has c := by simp [hambig.symm]
  rcases decideSlot_cases s v m with ⟨_, he⟩ | ⟨_, _, he⟩ | ⟨x, _, _, _, he⟩ <;> rw [he]
  · exact appendBit_has hovf s _
  · exact hraise
  · exact (appendBit_has hovf _ x).trans hraise

/-- A sample in RUN can raise AMBIG and RXOVF only (R100). -/
theorem runSample_has (hambig : c ≠ .ambig) (hovf : c ≠ .rxOvf) (s : State) (v : Int) :
    (runSample v s).sticky.has c = s.sticky.has c := by
  rcases runSample_cases s v with ⟨_, he⟩ | ⟨_, he⟩ <;> rw [he]
  · exact decideSlot_has hambig hovf s v s.rx.m
  · rfl

/-- A PUSH can raise RXSTART, AMBIG and RXOVF only (R100, R126). -/
theorem push_has (hstart : c ≠ .rxStart) (hambig : c ≠ .ambig) (hovf : c ≠ .rxOvf) (s : State) (w : Word) :
    (push w s).sticky.has c = s.sticky.has c := by
  rcases push_cases s w with ⟨_, he⟩ | ⟨_, he⟩ | ⟨_, he⟩ <;> rw [he]
  · exact (runSample_has hambig hovf _ _).trans (raise_has_of_ne hstart _)
  · exact runSample_has hambig hovf s _

end

/-- The step that is the RX source's (R55, R100). -/
theorem step_push {w : Word} (he : s.env.pending = .push w :: es) :
    step s = .next (push w (s.setPending es)) := by
  rw [step_cons he, perform_push]

/-- Settles O55. -/
theorem streamsDoNotInterfere : Obligations.StreamsDoNotInterfere := by
  intro s t es hstep
  refine ⟨fun he => ?_, fun w he => ?_⟩
  · rw [step_pull he] at hstep
    cases hstep
    exact pull_frame (s.setPending es)
  · rw [step_push he] at hstep
    cases hstep
    refine ⟨push_regs _ w, push_tx _ w, by rw [push_env]; rfl, by rw [push_env]; rfl, fun c hc => ?_⟩
    simp only [List.mem_cons, List.not_mem_nil, or_false, not_or] at hc
    obtain ⟨hstart, hambig, hovf⟩ := hc
    exact push_has hstart hambig hovf _ w

end Sys2Proof.Machine
end

section
/-! SUPPORT. The frame waveform (40_modulator.md, section 1): the carrier against the sine, the phase
accumulator, the parts of a frame, and the range of its values. -/

namespace Sys2Proof.Machine

variable {p : TxParams}

/-! ## The carrier and the sine -/

theorem phase_eq (p : TxParams) (n : Nat) : phase p n = (p.fc.toNat * n) % p.fs.toNat := rfl

/-- Whole turns drop out: the source's sine at sample `n` is the sine of the exact phase (R75). -/
theorem sin_carrier_eq_sin_phase (hfs : p.fs ≠ 0) (n : Nat) :
    Real.sin (2 * Real.pi * p.fc.toNat * ((n : ℝ) / p.fs.toNat)) =
      Real.sin (2 * Real.pi * ((phase p n : ℝ) / p.fs.toNat)) := by
  have hpos : (p.fs.toNat : ℝ) ≠ 0 := Nat.cast_ne_zero.2 (toNat_pos_of_ne_zero hfs).ne'
  have hdiv : (p.fs.toNat : ℝ) * ((p.fc.toNat * n / p.fs.toNat : ℕ) : ℝ) + phase p n = p.fc.toNat * n := by
    exact_mod_cast Nat.div_add_mod (p.fc.toNat * n) p.fs.toNat
  have hangle : 2 * Real.pi * p.fc.toNat * ((n : ℝ) / p.fs.toNat) =
      2 * Real.pi * ((phase p n : ℝ) / p.fs.toNat) +
        ((p.fc.toNat * n / p.fs.toNat : ℕ) : ℝ) * (2 * Real.pi) := by
    field_simp
    linarith
  rw [hangle, Real.sin_add_nat_mul_two_pi]

/-- The sine is 0 at phase 0 and at phase 1/2. -/
theorem sin_phase_of_crossing {r d : Nat} (hd : 0 < d) (h : r = 0 ∨ 2 * r = d) :
    Real.sin (2 * Real.pi * ((r : ℝ) / d)) = 0 := by
  rcases h with rfl | rfl
  · simp
  · have hr : (r : ℝ) ≠ 0 := Nat.cast_ne_zero.2 (by omega)
    have hangle : 2 * Real.pi * ((r : ℝ) / (2 * r : ℕ)) = Real.pi := by
      push_cast
      field_simp
    rw [hangle, Real.sin_pi]

/-- The sine is positive in the first half of a turn. -/
theorem sin_phase_pos {r d : Nat} (h0 : 0 < r) (h : 2 * r < d) :
    0 < Real.sin (2 * Real.pi * ((r : ℝ) / d)) := by
  have hr : (0 : ℝ) < r := Nat.cast_pos.2 h0
  have hd : (0 : ℝ) < d := Nat.cast_pos.2 (by omega)
  have hhalf : 2 * ((r : ℝ) / d) < 1 := by
    rw [← mul_div_assoc, div_lt_one hd]
    exact_mod_cast h
  refine Real.sin_pos_of_pos_of_lt_pi (by positivity) ?_
  nlinarith [Real.pi_pos]

/-- The sine is negative in the second half of a turn. -/
theorem sin_phase_neg {r d : Nat} (h : d < 2 * r) (hlt : r < d) :
    Real.sin (2 * Real.pi * ((r : ℝ) / d)) < 0 := by
  have hd : (0 : ℝ) < d := Nat.cast_pos.2 (by omega)
  have hhalf : 1 < 2 * ((r : ℝ) / d) := by
    rw [← mul_div_assoc, one_lt_div hd]
    exact_mod_cast h
  have hturn : (r : ℝ) / d < 1 := by
    rw [div_lt_one hd]
    exact_mod_cast hlt
  rw [← Real.sin_sub_two_pi]
  refine Real.sin_neg_of_neg_of_neg_pi_lt ?_ ?_ <;> nlinarith [Real.pi_pos]

/-- Without CZ the carrier is 0 at a zero crossing (R75). -/
theorem car_of_crossing {n : Nat} (hcz : p.cz = false)
    (h : phase p n = 0 ∨ 2 * phase p n = p.fs.toNat) : car p n = 0 := by
  unfold car
  rcases h with h | h <;> simp [h, hcz]

/-- Away from the zero crossings the carrier is the sign of the sine, whatever CZ is (R75). -/
theorem car_of_not_crossing (hfs : p.fs ≠ 0) {n : Nat} (h0 : phase p n ≠ 0)
    (h2 : 2 * phase p n ≠ p.fs.toNat) :
    (car p n : ℝ) = Real.sign (Real.sin (2 * Real.pi * ((phase p n : ℝ) / p.fs.toNat))) := by
  unfold car
  dsimp only
  rw [if_neg h0, if_neg h2]
  split
  · rw [Real.sign_of_pos (sin_phase_pos (Nat.pos_of_ne_zero h0) ‹_›), Int.cast_one]
  · have hlt := phase_lt (toNat_pos_of_ne_zero hfs) n
    rw [Real.sign_of_neg (sin_phase_neg (by omega) hlt), Int.cast_neg, Int.cast_one]

/-- With CZ the carrier is +1 at phase 0 (R75). -/
theorem car_cz_phase_zero {n : Nat} (hcz : p.cz = true) (h : phase p n = 0) : car p n = 1 := by
  simp [car, h, hcz]

/-- With CZ the carrier is -1 at phase 1/2 (R75). -/
theorem car_cz_phase_half {n : Nat} (hcz : p.cz = true) (h0 : phase p n ≠ 0)
    (h : 2 * phase p n = p.fs.toNat) : car p n = -1 := by
  simp [car, h0, h, hcz]

/-- Settles O21: by whether the phase is at a zero crossing. -/
theorem carrierIsTheSignOfTheSine : Obligations.CarrierIsTheSignOfTheSine := by
  intro p n hfs
  rw [← phase_eq, sin_carrier_eq_sin_phase hfs]
  refine ⟨fun hcz => ?_, fun hcz => ?_⟩
  · by_cases hcross : phase p n = 0 ∨ 2 * phase p n = p.fs.toNat
    · rw [car_of_crossing hcz hcross, sin_phase_of_crossing (toNat_pos_of_ne_zero hfs) hcross,
        Real.sign_zero, Int.cast_zero]
    · obtain ⟨h0, h2⟩ := not_or.1 hcross
      exact car_of_not_crossing hfs h0 h2
  · split_ifs with h0 h2
    · rw [car_cz_phase_zero hcz h0, Int.cast_one]
    · rw [car_cz_phase_half hcz h0 h2, Int.cast_neg, Int.cast_one]
    · exact car_of_not_crossing hfs h0 h2

/-- Settles O22: by induction on the sample index; one more sample adds `fc` modulo `fs`. -/
theorem phaseAccumulatorGivesThePhase : Obligations.PhaseAccumulatorGivesThePhase := by
  intro p n _
  induction n with
  | zero => rfl
  | succ n ih => rw [phaseAccumulator_succ, ih, ← Nat.add_mod, Nat.mul_succ]

/-! ## The parts of a frame -/

/-- The samples of slot `k` (R78). -/
theorem slotOf_eq {n k : Nat} (hlo : k * p.S.toNat ≤ n) (hhi : n < (k + 1) * p.S.toNat) : slotOf p n = k :=
  Nat.div_eq_of_lt_le hlo hhi

/-- The samples from slot `k` on (R78). -/
theorem le_slotOf_iff (hS : p.S ≠ 0) {n k : Nat} : k ≤ slotOf p n ↔ k * p.S.toNat ≤ n :=
  Nat.le_div_iff_mul_le (toNat_pos_of_ne_zero hS)

/-- Settles O23: each range of samples is a slot of the preamble, a data slot, or a slot after them. -/
theorem frameLayout : Obligations.FrameLayout := by
  intro b p n hS
  refine ⟨fun k hk hlo hhi => ?_, fun i hi hlo hhi => ?_, fun hlo => ?_⟩
  · have hslot : slotOf p n = k := slotOf_eq hlo hhi
    rw [enc_preamble b p (by rwa [hslot]), hslot, preambleLevel]
  · rw [enc_data b p hi (slotOf_eq hlo hhi), bitLevel]
  · exact enc_idle b p ((le_slotOf_iff hS).2 hlo)

/-! ## The range of the values -/

/-- A level times the carrier lies within 16 bits, but for the lowest level's negative (R82). -/
theorem car_mul_level_bounds (p : TxParams) (n : Nat) (l : Level) :
    -32768 ≤ car p n * l.toInt ∧ car p n * l.toInt ≤ 32768 := by
  have hl := level_bounds l
  rcases car_values p n with h | h | h <;> rw [h] <;> omega

theorem preambleLevel_is_level (p : TxParams) (k : Nat) : ∃ l : Level, preambleLevel p k = l.toInt := by
  unfold preambleLevel
  split
  · exact ⟨p.aLow, rfl⟩
  · exact ⟨p.aHigh, rfl⟩

theorem bitLevel_is_level (p : TxParams) (x : Bool) : ∃ l : Level, bitLevel p x = l.toInt := by
  cases x with
  | false => exact ⟨p.aHigh, rfl⟩
  | true => exact ⟨p.aLow, rfl⟩

/-- A slot is of the preamble, a data slot, or after them (R78). -/
theorem slotOf_cases (p : TxParams) (n : Nat) :
    slotOf p n < p.P.toNat ∨ (∃ i, i < 8 ∧ slotOf p n = p.P.toNat + i) ∨ p.P.toNat + 8 ≤ slotOf p n := by
  by_cases hpre : slotOf p n < p.P.toNat
  · exact .inl hpre
  · by_cases hdata : slotOf p n < p.P.toNat + 8
    · exact .inr (.inl ⟨slotOf p n - p.P.toNat, by omega, by omega⟩)
    · exact .inr (.inr (by omega))

/-- Every value of a frame is the carrier times a level, or a level (R79, R80, R81). -/
theorem enc_cases (b : Byte) (p : TxParams) (n : Nat) :
    ∃ l : Level, enc b p n = car p n * l.toInt ∨ enc b p n = l.toInt := by
  rcases slotOf_cases p n with hpre | ⟨i, hi, hdata⟩ | hidle
  · obtain ⟨l, hl⟩ := preambleLevel_is_level p (slotOf p n)
    exact ⟨l, .inl (by rw [enc_preamble b p hpre, hl])⟩
  · obtain ⟨l, hl⟩ := bitLevel_is_level p (b.getLsbD (7 - i))
    exact ⟨l, .inl (by rw [enc_data b p hi hdata, hl])⟩
  · exact ⟨p.aLow, .inr (enc_idle b p hidle)⟩

/-- Every value of a frame lies in [-32768, 32768] (R82). -/
theorem enc_bounds (b : Byte) (p : TxParams) (n : Nat) : -32768 ≤ enc b p n ∧ enc b p n ≤ 32768 := by
  obtain ⟨l, h | h⟩ := enc_cases b p n <;> rw [h]
  · exact car_mul_level_bounds p n l
  · have hl := level_bounds l
    omega

/-- A sample word holds every integer of the signed 32-bit range (R10). -/
theorem u32_toInt {v : Int} (hlo : -2 ^ 31 ≤ v) (hhi : v < 2 ^ 31) : (u32 v).toInt = v :=
  BitVec.toInt_ofInt_eq_self (by decide) hlo hhi

/-- Settles O24. -/
theorem frameValuesFitTheSampleWord : Obligations.FrameValuesFitTheSampleWord := by
  intro b p n
  obtain ⟨hlo, hhi⟩ := enc_bounds b p n
  exact ⟨hlo, hhi, u32_toInt (by omega) (by omega)⟩

end Sys2Proof.Machine
end

section
/-! SUPPORT. What the RX commands, the schedule, the slicer and one sample do to the whole state
(41_demodulator.md). -/

namespace Sys2Proof.Machine

variable {s : State} {es : List Event} {w : Word}

/-! ## RX_START, RX_STOP and RX_FIFO_CLEAR -/

@[simp] theorem exec_rxStart (s : State) : exec .rxStart s = execRxStart s := rfl

/-- An RX_START that passes its check arms a fresh session with the latched parameters (R97). -/
theorem execRxStart_accepted (ok : rxConfigOk s.regs = true) :
    execRxStart s = .next (s.setRx ⟨.armed, latchRx s.regs, 0, 0, [], none⟩) := by
  rcases execRxStart_cases s with ⟨bad, _⟩ | ⟨_, he⟩
  · exact absurd (ok.symm.trans bad) (by decide)
  · exact he

/-- An RX_START that fails its check raises CFGERR only (R95). -/
theorem execRxStart_refused (bad : ¬ rxConfigOk s.regs = true) : execRxStart s = .next (raise .cfgErr s) := by
  rcases execRxStart_cases s with ⟨_, he⟩ | ⟨ok, _⟩
  · exact he
  · exact absurd ok bad

theorem effectiveThreshold_of_manual {r : Regs} (h : r.ctrl.thrAuto = false) :
    effectiveThreshold r = r.rxThresh := by
  simp [effectiveThreshold, h]

/-- The automatic threshold is the levels' midpoint, rounded toward minus infinity: the 32-bit word holds it
exactly (R96). -/
theorem effectiveThreshold_of_auto {r : Regs} (h : r.ctrl.thrAuto = true) :
    (effectiveThreshold r).toInt = (r.aLow.toInt + r.aHigh.toInt) / 2 := by
  have hlow := level_bounds r.aLow
  have hhigh := level_bounds r.aHigh
  rw [effectiveThreshold, if_pos h, Int.fdiv_eq_ediv_of_nonneg _ (by decide)]
  exact u32_toInt (by omega) (by omega)

/-- Settles O25: the latch is `latchRx`, with the effective threshold. -/
theorem rxStartArmsAFreshSession : Obligations.RxStartArmsAFreshSession := by
  intro s hsl hfl hmid
  refine ⟨effectiveThreshold s.regs, fun hauto => ?_, effectiveThreshold_of_manual, ?_⟩
  · have hT := effectiveThreshold_of_auto hauto
    omega
  · exact execRxStart_accepted ((rxConfigOk_iff s.regs).2 ⟨hsl, hfl, hmid⟩)

/-- Settles O26: each of the three conditions fails the check. -/
theorem rxStartRefusedOnBadConfiguration : Obligations.RxStartRefusedOnBadConfiguration := by
  intro s hbad
  refine execRxStart_refused fun ok => ?_
  obtain ⟨hsl, hfl, hmid⟩ := (rxConfigOk_iff s.regs).1 ok
  rcases hbad with hbad | ⟨hframed, hbad⟩ | ⟨hauto, hbad⟩
  · exact hsl hbad
  · exact (hfl.resolve_left hframed).not_ge hbad
  · exact (hmid hauto).not_gt hbad

/-- Settles O27: the two views read none of the receive state. -/
theorem rxStopKeepsTheAccumulator : Obligations.RxStopKeepsTheAccumulator :=
  ⟨decode_encode .rxStop, fun s => ⟨s.setRx { s.rx with state := .idle }, rfl, rfl, rfl, rfl⟩⟩

/-- Settles O28: the views of an empty FIFO. -/
theorem rxFifoClearEmptiesTheFifo : Obligations.RxFifoClearEmptiesTheFifo := by
  refine ⟨decode_encode .rxFifoClear, fun s => ⟨s.setRxq [], rfl, rfl, ?_, ?_, rfl⟩⟩
  · rw [readView, intStat_rxAvl]
    rfl
  · rw [readView, status_rxqCount]
    rfl

/-! ## The slicer and the dead zone -/

/-- A value is outside the dead zone when there is none, or at or beyond one of its bounds (R110). -/
theorem inDeadZone_eq_false_iff {p : RxParams} {v : Int} :
    inDeadZone p v = false ↔ p.dzMode = .off ∨ v ≤ p.dzLo.toInt ∨ p.dzHi.toInt ≤ v := by
  rw [← Bool.not_eq_true, inDeadZone_iff, not_and_or, not_and_or, ne_eq, not_not, not_lt, not_lt]

theorem slice_of_lt {p : RxParams} {v : Int} (h : v < p.T.toInt) : slice p v = p.inv := by
  simp [slice, h.not_ge]

theorem slice_of_le {p : RxParams} {v : Int} (h : p.T.toInt ≤ v) : slice p v = !p.inv := by
  simp [slice, h]

/-- The slicer's bit for each polarity (R109). -/
theorem slice_classifies (p : RxParams) (v : Int) :
    (p.inv = false → (slice p v = true ↔ p.T.toInt ≤ v)) ∧
      (p.inv = true → (slice p v = true ↔ v < p.T.toInt)) := by
  constructor <;> intro hinv <;> simp [slice_iff, hinv]

/-- Settles O35. -/
theorem slicerIsMonotonic : Obligations.SlicerIsMonotonic := by
  intro p v1 v2 hlt hle
  rw [slice_of_lt hlt, slice_of_le hle]
  constructor <;> intro hinv <;> simp [hinv]

/-! ## The schedule -/

/-- Decision `i` of frame `f`, in framed mode (R104). -/
theorem sched_frame {p : RxParams} (h : p.fl ≠ 0) (f : Nat) {i : Nat} (hi : i < 8) :
    sched p (8 * f + i) = f * p.fl.toNat + p.off.toNat + (p.skip.toNat + i) * p.sl.toNat := by
  have hdiv : (8 * f + i) / 8 = f := by omega
  have hmod : (8 * f + i) % 8 = i := by omega
  rw [sched_framed h, hdiv, hmod]

/-- Settles O36. -/
theorem scheduleOfDecisions : Obligations.ScheduleOfDecisions :=
  fun _ => ⟨sched_unframed, fun h f _ hi => sched_frame h f hi⟩

theorem sched_strictMono {p : RxParams} (h : scheduleOk p = true) : StrictMono (sched p) :=
  strictMono_nat_of_lt_succ (sched_lt_succ h)

/-- In framed mode no decision lies before its frame (R105). -/
theorem frame_le_sched {p : RxParams} (h : p.fl ≠ 0) (k : Nat) : k / 8 * p.fl.toNat ≤ sched p k := by
  rw [sched_framed h, Nat.add_assoc]
  exact Nat.le_add_right _ _

/-- In framed mode the last decision of a frame lies before the next frame (R105). -/
theorem sched_last_lt_next_frame {p : RxParams} (hok : scheduleOk p = true) (h : p.fl ≠ 0) (f : Nat) :
    sched p (8 * f + 7) < (f + 1) * p.fl.toNat := by
  obtain ⟨-, hfits⟩ := (scheduleOk_iff p).1 hok
  have := hfits.resolve_left h
  rw [sched_frame h f (by decide), Nat.add_mul f 1]
  omega

/-- In framed mode every decision lies before the frame after its own (R105). -/
theorem sched_lt_next_frame {p : RxParams} (hok : scheduleOk p = true) (h : p.fl ≠ 0) (k : Nat) :
    sched p k < (k / 8 + 1) * p.fl.toNat :=
  ((sched_strictMono hok).monotone (by omega : k ≤ 8 * (k / 8) + 7)).trans_lt
    (sched_last_lt_next_frame hok h (k / 8))

/-- Settles O37: the frame bounds are those of decisions `8 * f + 7` and `8 * (f + 1)`. -/
theorem scheduleIsStrictlyIncreasing : Obligations.ScheduleIsStrictlyIncreasing := by
  refine fun p hok => ⟨fun _ _ hjk => sched_strictMono hok hjk, fun h f =>
    ⟨sched_last_lt_next_frame hok h f, ?_⟩⟩
  have hdiv : (8 * f + 8) / 8 = f + 1 := by omega
  rw [← hdiv]
  exact frame_le_sched h (8 * f + 8)

/-! ## Appending a bit -/

/-- Bit `j` of a list, oldest first, is bit `length - 1 - j` of its value (R29, R115). -/
theorem testBit_bitsValue (bits : List Bool) {j : Nat} (h : j < bits.length) :
    (bitsValue bits).testBit (bits.length - 1 - j) = bits.getD j false := by
  induction bits using List.reverseRecOn with
  | nil => exact absurd h (Nat.not_lt_zero j)
  | append_singleton xs x ih =>
    rw [bitsValue_append_singleton, List.length_append, List.length_singleton, Nat.add_sub_cancel]
    rw [List.length_append, List.length_singleton] at h
    rcases Nat.lt_succ_iff_lt_or_eq.1 h with hlt | rfl
    · have hexp : xs.length - j = xs.length - 1 - j + 1 := by omega
      have hhalf : (2 * bitsValue xs + x.toNat) / 2 = bitsValue xs := by
        have := Bool.toNat_le x
        omega
      rw [hexp, Nat.testBit_succ, hhalf, ih hlt, List.getD_append _ _ _ _ hlt]
    · rw [Nat.sub_self, Nat.testBit_zero]
      cases x <;> simp

/-- The flushed byte, bit by bit: the oldest bit is the most significant (R115). -/
theorem getLsbD_flushedByte {bits : List Bool} (h : bits.length = 8) {j : Nat} (hj : j < 8) :
    (BitVec.ofNat 8 (bitsValue bits)).getLsbD (7 - j) = bits.getD j false := by
  have hbit := testBit_bitsValue bits (j := j) (by omega)
  rw [h] at hbit
  rw [BitVec.getLsbD_ofNat, ← hbit, decide_eq_true (by omega), Bool.true_and]

/-- Fewer than 8 bits stay in the accumulator (R114). -/
theorem appendBit_of_short (h : s.rx.acc.length + 1 ≠ 8) (x : Bool) :
    appendBit x s = s.setRx { s.rx with acc := s.rx.acc ++ [x], last := some x } := by
  rcases appendBit_cases s x with ⟨_, he⟩ | ⟨h8, _⟩ | ⟨h8, _⟩
  · rw [he, RxEngine.appended, if_neg h]
  all_goals exact absurd h8 h

/-- The eighth bit flushes the byte into the FIFO, or loses it with RXOVF (R115, R116). -/
theorem appendBit_of_eighth (h : s.rx.acc.length + 1 = 8) (x : Bool) :
    appendBit x s = { s with
      rx := { s.rx with acc := [], last := some x }
      rxq :=
        if s.rxq.length < 8 then s.rxq ++ [BitVec.ofNat 8 (bitsValue (s.rx.acc ++ [x]))] else s.rxq
      sticky := if s.rxq.length < 8 then s.sticky else s.sticky.set .rxOvf } := by
  rcases appendBit_cases s x with ⟨h8, _⟩ | ⟨_, hroom, he⟩ | ⟨_, hfull, he⟩
  · exact absurd h h8
  · rw [he, RxEngine.appended, if_pos h, if_pos hroom, if_pos hroom]
    rfl
  · rw [he, RxEngine.appended, if_pos h, if_neg hfull.not_gt, if_neg hfull.not_gt]
    rfl

/-- Settles O34. -/
theorem eighthBitFlushesOneByte : Obligations.EighthBitFlushesOneByte := by
  refine fun s x _ => ⟨fun hlt => appendBit_of_short (by omega) x, fun h7 =>
    ⟨BitVec.ofNat 8 (bitsValue (s.rx.acc ++ [x])), fun j hj => ?_, appendBit_of_eighth (by omega) x⟩⟩
  exact getLsbD_flushedByte (by rw [List.length_append, h7, List.length_singleton]) hj

/-! ## One slot decision -/

/-- Outside the dead zone the classified bit is appended (R108, R109). -/
theorem decideSlot_of_clear (s : State) {v : Int} (h : inDeadZone s.rx.p v = false) (m : Nat) :
    decideSlot v m s = appendBit (slice s.rx.p v) s := by
  simp [decideSlot, h]

/-- Inside the dead zone AMBIG is raised; drop, or hold with no bit yet, appends nothing, and hold appends
the last bit again (R111, R112, R113). -/
theorem decideSlot_of_deadZone (s : State) {v : Int} (h : inDeadZone s.rx.p v = true) (m : Nat) :
    (s.rx.p.dzMode = .drop → decideSlot v m s = raiseAmbig m s) ∧
      (s.rx.p.dzMode = .hold → s.rx.last = none → decideSlot v m s = raiseAmbig m s) ∧
      (∀ x, s.rx.p.dzMode = .hold → s.rx.last = some x → decideSlot v m s = appendBit x (raiseAmbig m s)) := by
  have hzone : decideSlot v m s = deadZone m s := by rw [decideSlot, if_pos h]
  rw [hzone]
  refine ⟨fun hdrop => ?_, fun hhold hnone => ?_, fun x hhold hsome => ?_⟩
  · simp [deadZone, hdrop]
  · simp [deadZone, hhold, hnone]
  · simp [deadZone, hhold, hsome]

/-! ## One sample -/

theorem push_of_idle (h : s.rx.state = .idle) (w : Word) : push w s = s := by
  simp [push, h]

theorem push_of_run (h : s.rx.state = .run) (w : Word) : push w s = runSample w.toInt s := by
  simp [push, h]

/-- The first sample of a session is taken as in RUN, with RXSTART raised (R102). -/
theorem push_of_armed (h : s.rx.state = .armed) (w : Word) : push w s = push w (leaveArmed s) := by
  rw [push_of_run (s := leaveArmed s) rfl]
  simp [push, h]

/-- A sample in RUN that is no decision point only counts (R100). -/
theorem push_of_count (hs : s.rx.state = .run) (hm : s.rx.m ≠ sched s.rx.p s.rx.k) (w : Word) :
    push w s = s.setRx { s.rx with m := s.rx.m + 1 } := by
  rw [push_of_run hs, runSample, if_neg hm]

/-- A sample in RUN at a decision point is decided, and both counters advance (R100). -/
theorem push_of_decision (hs : s.rx.state = .run) (hm : s.rx.m = sched s.rx.p s.rx.k) (w : Word) :
    push w s = (decideSlot w.toInt s.rx.m s).setRx
      { (decideSlot w.toInt s.rx.m s).rx with m := s.rx.m + 1, k := s.rx.k + 1 } := by
  obtain ⟨-, -, hm', hk⟩ := decideSlot_rx_frame s w.toInt s.rx.m
  rcases runSample_cases s w.toInt with ⟨_, he⟩ | ⟨hne, _⟩
  · rw [push_of_run hs, he, hm', hk]
  · exact absurd hm hne

/-- What every sample in RUN does to the session (R100). -/
theorem push_session (hs : s.rx.state = .run) (w : Word) :
    (push w s).rx.state = .run ∧ (push w s).rx.p = s.rx.p ∧ (push w s).rx.m = s.rx.m + 1 ∧
      (push w s).rx.k = if s.rx.m = sched s.rx.p s.rx.k then s.rx.k + 1 else s.rx.k := by
  by_cases hm : s.rx.m = sched s.rx.p s.rx.k
  · obtain ⟨hstate, hp, -, -⟩ := decideSlot_rx_frame s w.toInt s.rx.m
    rw [push_of_decision hs hm, if_pos hm]
    exact ⟨hstate.trans hs, hp, rfl, rfl⟩
  · rw [push_of_count hs hm, if_neg hm]
    exact ⟨hs, rfl, rfl, rfl⟩

/-- Settles O29. -/
theorem idleReceiverDiscardsSamples : Obligations.IdleReceiverDiscardsSamples := by
  intro s es w he hs
  rw [step_push he, push_of_idle (s := s.setPending es) hs]

/-- Settles O31. -/
theorem sampleBetweenDecisionsOnlyCounts : Obligations.SampleBetweenDecisionsOnlyCounts := by
  intro s es w he hs hm
  rw [step_push he, push_of_count (s := s.setPending es) hs hm]
  rfl

/-- Settles O32: the bit is the slicer's. -/
theorem decisionAppendsTheClassifiedBit : Obligations.DecisionAppendsTheClassifiedBit := by
  intro s es w he hs hm hclear
  obtain ⟨hplain, hinverted⟩ := slice_classifies s.rx.p w.toInt
  refine ⟨slice s.rx.p w.toInt, decideSlot w.toInt s.rx.m (s.setPending es), hplain, hinverted,
    decideSlot_of_clear (s.setPending es) (inDeadZone_eq_false_iff.2 hclear) s.rx.m, ?_⟩
  rw [step_push he, push_of_decision (s := s.setPending es) hs hm]
  rfl

/-- Settles O33: by the policies of a decision inside the dead zone. -/
theorem deadZoneDropsOrHolds : Obligations.DeadZoneDropsOrHolds := by
  intro s es w he hs hm hmode hlo hhi
  obtain ⟨hdrop, hnone, hsome⟩ :=
    decideSlot_of_deadZone (s.setPending es) ((inDeadZone_iff _ _).2 ⟨hmode, hlo, hhi⟩) s.rx.m
  refine ⟨raiseAmbig s.rx.m (s.setPending es), decideSlot w.toInt s.rx.m (s.setPending es),
    raiseAmbig_eq _ _, hdrop, hnone, hsome, ?_⟩
  rw [step_push he, push_of_decision (s := s.setPending es) hs hm]
  rfl

/-! ## The first sample of a session -/

/-- The first sample of a session is the next step's: it is taken in the state that has left ARMED (R102). -/
theorem step_first_sample (he : s.env.pending = .push w :: es) (h : s.rx.state = .armed) :
    step s = .next (push w ((leaveArmed s).setPending es)) := by
  rw [step_push he, push_of_armed (s := s.setPending es) h]
  rfl

/-- The sample of index 0 in RUN is decided at once if the first decision lies there, and only counts if that
lies later (R100). -/
theorem push_at_zero (hs : s.rx.state = .run) (hm : s.rx.m = 0) (hk : s.rx.k = 0) (w : Word) :
    (sched s.rx.p 0 ≠ 0 → push w s = s.setRx { s.rx with m := 1 }) ∧
      (sched s.rx.p 0 = 0 → push w s = (decideSlot w.toInt 0 s).setRx
        { (decideSlot w.toInt 0 s).rx with m := 1, k := 1 }) := by
  refine ⟨fun hlater => ?_, fun hnow => ?_⟩
  · rw [push_of_count hs (by rw [hm, hk]; exact hlater.symm), hm]
  · rw [push_of_decision hs (by rw [hm, hk, hnow]), hm, hk]

/-- Settles O30: the step is that of the same sample in `leaveArmed s`, which is in RUN at index 0. -/
theorem firstSampleStartsDecoding : Obligations.FirstSampleStartsDecoding := by
  intro s es w he harmed hm hk
  have hstep := step_first_sample he harmed
  obtain ⟨hstate, hp, hm1, hk1⟩ := push_session (s := (leaveArmed s).setPending es) rfl w
  obtain ⟨hlater, hnow⟩ := push_at_zero (s := (leaveArmed s).setPending es) rfl hm hk w
  obtain ⟨hplain, hinverted⟩ := slice_classifies s.rx.p w.toInt
  have hstarted : (push w ((leaveArmed s).setPending es)).sticky.has .rxStart = true :=
    push_keeps_sticky (by simp) w
  refine ⟨leaveArmed s, _, raiseAmbig 0 ((leaveArmed s).setPending es),
    decideSlot w.toInt 0 ((leaveArmed s).setPending es), rfl,
    hstep.trans (step_push (s := leaveArmed s) he).symm, hstep, hstate, hstarted, ?_, hp, ?_, hlater, hnow,
    fun hclear => ?_, fun hmode hlo hhi => ?_⟩
  · simpa [hm] using hm1
  · simpa [hm, hk, eq_comm] using hk1
  · exact ⟨slice s.rx.p w.toInt, hplain, hinverted,
      decideSlot_of_clear ((leaveArmed s).setPending es) (inDeadZone_eq_false_iff.2 hclear) 0⟩
  · exact ⟨raiseAmbig_eq _ 0,
      decideSlot_of_deadZone ((leaveArmed s).setPending es) ((inDeadZone_iff _ _).2 ⟨hmode, hlo, hhi⟩) 0⟩

end Sys2Proof.Machine
end

section
/-! SUPPORT. The direct link (R120): what the receiver has made of the samples pushed so far, said as an
invariant of a stream of bytes, and the words of a modulated frame as such a stream. -/

namespace Sys2Proof.Machine

variable {s : State} {w : Word} {q : List Byte} {c : Nat → Byte}

/-! ## Runs of the source -/

@[simp] theorem pushAll_nil (s : State) : pushAll [] s = s := rfl

@[simp] theorem pushAll_cons (w : Word) (ws : List Word) (s : State) :
    pushAll (w :: ws) s = pushAll ws (push w s) := rfl

theorem pushAll_append (us ws : List Word) (s : State) :
    pushAll (us ++ ws) s = pushAll ws (pushAll us s) :=
  List.foldl_append

/-- A session fills the FIFO the same whether the start detector acts before its first sample or on it
(R102). -/
theorem pushAll_rxq_of_armed (h : s.rx.state = .armed) (ws : List Word) :
    (pushAll ws s).rxq = (pushAll ws (leaveArmed s)).rxq := by
  cases ws with
  | nil => rfl
  | cons w ws => rw [pushAll_cons, pushAll_cons, push_of_armed h]

/-! The source only adds to the FIFO. -/

theorem rxq_prefix_appendBit (s : State) (x : Bool) : s.rxq <+: (appendBit x s).rxq := by
  rcases appendBit_cases s x with ⟨_, he⟩ | ⟨_, _, he⟩ | ⟨_, _, he⟩ <;> rw [he]
  · exact List.prefix_rfl
  · exact List.prefix_append _ _
  · exact List.prefix_rfl

theorem rxq_prefix_decideSlot (s : State) (v : Int) (m : Nat) : s.rxq <+: (decideSlot v m s).rxq := by
  have hraise : (raiseAmbig m s).rxq = s.rxq := raiseAmbig_rxq s m
  rcases decideSlot_cases s v m with ⟨_, he⟩ | ⟨_, _, he⟩ | ⟨x, _, _, _, he⟩ <;> rw [he]
  · exact rxq_prefix_appendBit s _
  · rw [hraise]
  · exact hraise ▸ rxq_prefix_appendBit (raiseAmbig m s) x

theorem rxq_prefix_runSample (s : State) (v : Int) : s.rxq <+: (runSample v s).rxq := by
  rcases runSample_cases s v with ⟨_, he⟩ | ⟨_, he⟩ <;> rw [he]
  · exact rxq_prefix_decideSlot s v s.rx.m
  · exact List.prefix_rfl

theorem rxq_prefix_push (s : State) (w : Word) : s.rxq <+: (push w s).rxq := by
  rcases push_cases s w with ⟨_, he⟩ | ⟨_, he⟩ | ⟨_, he⟩ <;> rw [he]
  · exact rxq_prefix_runSample (leaveArmed s) _
  · exact rxq_prefix_runSample s _

theorem rxq_prefix_pushAll (ws : List Word) (s : State) : s.rxq <+: (pushAll ws s).rxq := by
  induction ws generalizing s with
  | nil => exact List.prefix_rfl
  | cons w ws ih => exact (rxq_prefix_push s w).trans (ih (push w s))

/-! ## The bits of a byte in the order they are sent -/

/-- The first `n` bits of a byte, most significant first (R80, R115). -/
def msbFirst (b : Byte) (n : Nat) : List Bool := (List.range n).map fun i => b.getLsbD (7 - i)

theorem msbFirst_succ (b : Byte) (n : Nat) : msbFirst b (n + 1) = msbFirst b n ++ [b.getLsbD (7 - n)] := by
  simp [msbFirst, List.range_succ]

@[simp] theorem length_msbFirst (b : Byte) (n : Nat) : (msbFirst b n).length = n := by
  simp [msbFirst]

/-- Eight bits sent from a byte are flushed as that byte (R115). -/
theorem flushedByte_msbFirst (b : Byte) : BitVec.ofNat 8 (bitsValue (msbFirst b 8)) = b := by
  apply BitVec.eq_of_getLsbD_eq
  intro i hi
  have hbit := getLsbD_flushedByte (length_msbFirst b 8) (j := 7 - i) (by omega)
  rw [Nat.sub_sub_self (by omega)] at hbit
  have hget : (msbFirst b 8).getD (7 - i) false = b.getLsbD i := by
    rw [msbFirst, List.getD_eq_getElem _ _ (by simp; omega), List.getElem_map, List.getElem_range,
      Nat.sub_sub_self (by omega)]
  rw [hbit, hget]

/-! ## The stream of bytes a session has received -/

/-- A sample in RUN keeps the receive engine's invariant, whatever the rest of the state (R100). -/
theorem push_rx_inv (h : s.rx.Inv) (hs : s.rx.state = .run) (w : Word) : (push w s).rx.Inv := by
  by_cases hm : s.rx.m = sched s.rx.p s.rx.k
  · rw [push_of_decision hs hm, State.setRx_rx]
    rcases decideSlot_rx s w.toInt s.rx.m with he | ⟨x, he⟩ <;> rw [he]
    · exact h.decided hs hm
    · exact (h.appended hs x).decided hs hm
  · rw [push_of_count hs hm, State.setRx_rx]
    exact h.count hs hm

/-- The passed decision points are the first `K`, so the decision index is `K` (R105). -/
theorem RxEngine.atDecision.k_eq {r : RxEngine} (h : r.atDecision) {K : Nat}
    (hpast : ∀ j, j < K → sched r.p j < r.m) (hnext : r.m ≤ sched r.p K) : r.k = K := by
  obtain ⟨hpast', hnext'⟩ := h
  rcases Nat.lt_trichotomy r.k K with hlt | heq | hgt
  · exact absurd hnext' (hpast r.k hlt).not_ge
  · exact heq
  · exact absurd hnext (hpast' K hgt).not_ge

/-- A session in RUN whose `rx.k` decisions so far are the first bits of the stream of bytes `c`: the whole
bytes stand in the FIFO behind `q`, the rest in the accumulator (R114, R115, R116). -/
structure Received (q : List Byte) (c : Nat → Byte) (s : State) : Prop where
  running : s.rx.state = .run
  inv : s.rx.Inv
  acc : s.rx.acc = msbFirst (c (s.rx.k / 8)) (s.rx.k % 8)
  fifo : s.rxq = q ++ (List.range (s.rx.k / 8)).map c

/-- A value that is decided as the stream's bit of decision `k` (R108, R109). -/
def DecidedAs (c : Nat → Byte) (p : RxParams) (k : Nat) (v : Int) : Prop :=
  inDeadZone p v = false ∧ slice p v = (c (k / 8)).getLsbD (7 - k % 8)

/-- A session that is started has received no bit (R97, R102). -/
theorem Received.start (c : Nat → Byte) (hm : s.rx.m = 0) (hk : s.rx.k = 0) (hacc : s.rx.acc = [])
    (hok : scheduleOk s.rx.p = true) : Received s.rxq c (leaveArmed s) where
  running := rfl
  inv :=
    { acc_bounded := by simp [hacc]
      schedule_checked := fun _ => hok
      decision_index := by simp [RxEngine.atDecision, hm, hk]
      last_is_newest := fun h => absurd hacc h
      armed_is_fresh := fun h => by cases h }
  acc := by simp [hacc, hk, msbFirst]
  fifo := by simp [hk]

/-- A sample between decision points leaves what is received (R100). -/
theorem Received.count (h : Received q c s) (hm : s.rx.m ≠ sched s.rx.p s.rx.k) (w : Word) :
    Received q c (push w s) where
  running := (push_session h.running w).1
  inv := push_rx_inv h.inv h.running w
  acc := by rw [push_of_count h.running hm]; exact h.acc
  fifo := by rw [push_of_count h.running hm]; exact h.fifo

/-- A decision on the stream's next bit receives that bit; the eighth needs room in the FIFO (R114, R116). -/
theorem Received.decide (h : Received q c s) (hm : s.rx.m = sched s.rx.p s.rx.k)
    (hbit : DecidedAs c s.rx.p s.rx.k w.toInt) (hroom : q.length + s.rx.k / 8 < 8) :
    Received q c (push w s) := by
  obtain ⟨hclear, hslice⟩ := hbit
  have hpush := push_of_decision h.running hm w
  rw [decideSlot_of_clear s hclear] at hpush
  have hacc : (push w s).rx.acc = (appendBit (slice s.rx.p w.toInt) s).rx.acc := by rw [hpush]; rfl
  have hfifo : (push w s).rxq = (appendBit (slice s.rx.p w.toInt) s).rxq := by rw [hpush]; rfl
  have hk : (push w s).rx.k = s.rx.k + 1 := by rw [hpush]; rfl
  have hlen : s.rx.acc.length = s.rx.k % 8 := by rw [h.acc, length_msbFirst]
  have hbits : s.rx.acc ++ [slice s.rx.p w.toInt] = msbFirst (c (s.rx.k / 8)) (s.rx.k % 8 + 1) := by
    rw [h.acc, hslice, msbFirst_succ]
  have hrunning := (push_session h.running w).1
  have hinv := push_rx_inv h.inv h.running w
  by_cases h7 : s.rx.k % 8 = 7
  · have hdiv : (s.rx.k + 1) / 8 = s.rx.k / 8 + 1 := by omega
    have hmod : (s.rx.k + 1) % 8 = 0 := by omega
    have hfree : s.rxq.length < 8 := by simpa [h.fifo] using hroom
    rw [appendBit_of_eighth (by omega), hbits, h7, flushedByte_msbFirst] at hacc hfifo
    refine ⟨hrunning, hinv, ?_, ?_⟩
    · rw [hacc, hk, hmod]
      rfl
    · have hqueue : (push w s).rxq = s.rxq ++ [c (s.rx.k / 8)] := hfifo.trans (if_pos hfree)
      rw [hqueue, h.fifo, hk, hdiv, List.range_succ, List.map_append, List.append_assoc]
      rfl
  · have hdiv : (s.rx.k + 1) / 8 = s.rx.k / 8 := by omega
    have hmod : (s.rx.k + 1) % 8 = s.rx.k % 8 + 1 := by omega
    rw [appendBit_of_short (by omega), hbits] at hacc hfifo
    refine ⟨hrunning, hinv, ?_, ?_⟩
    · rw [hacc, hk, hdiv, hmod]
      rfl
    · rw [hfifo, hk, hdiv]
      exact h.fifo

/-- A run of samples, each decided as the stream's bit where a decision lies on it, receives the stream. -/
theorem Received.pushAll (h : Received q c s) {ws : List Word}
    (hws : ∀ (n k : Nat) (hn : n < ws.length), sched s.rx.p k = s.rx.m + n →
      DecidedAs c s.rx.p k ws[n].toInt ∧ q.length + k / 8 < 8) :
    Received q c (Machine.pushAll ws s) ∧ (Machine.pushAll ws s).rx.p = s.rx.p ∧
      (Machine.pushAll ws s).rx.m = s.rx.m + ws.length := by
  induction ws generalizing s with
  | nil => exact ⟨h, rfl, rfl⟩
  | cons w ws ih =>
    obtain ⟨-, hp, hm, -⟩ := push_session h.running w
    have hpushed : Received q c (push w s) := by
      by_cases hpoint : s.rx.m = sched s.rx.p s.rx.k
      · obtain ⟨hbit, hroom⟩ := hws 0 s.rx.k (Nat.zero_lt_succ _) hpoint.symm
        exact h.decide hpoint hbit hroom
      · exact h.count hpoint w
    obtain ⟨hrec, hp', hm'⟩ := ih hpushed fun n k hn hk => by
      rw [hp] at hk ⊢
      exact hws (n + 1) k (Nat.succ_lt_succ hn) (by omega)
    refine ⟨hrec, hp'.trans hp, ?_⟩
    rw [pushAll_cons, hm', hm, List.length_cons]
    omega

/-! ## The two ends of a direct link -/

/-- The configurations of the two ends of a direct link (R120): a checked transmitter, a receiver with its
slots and preamble, an offset inside the slot that sees the carrier at +1 in every data slot, data decisions
inside the frame, both levels outside the dead zone, and the threshold between them. -/
structure DirectLink (p : TxParams) (r : RxParams) : Prop where
  sent_ok : txConfigOk p = true
  slots : r.sl = p.S
  preamble : r.skip = p.P
  offset_in_slot : r.off.toNat < p.S.toNat
  fits : r.off.toNat + (p.P.toNat + 7) * p.S.toNat < p.N.toNat
  clear : r.dzMode = .off ∨
    (¬ (r.dzLo.toInt < p.aLow.toInt ∧ p.aLow.toInt < r.dzHi.toInt) ∧
      ¬ (r.dzLo.toInt < p.aHigh.toInt ∧ p.aHigh.toInt < r.dzHi.toInt))
  carrier : ∀ i, i < 8 → car p (r.off.toNat + (p.P.toNat + i) * p.S.toNat) = 1
  low : p.aLow.toInt < r.T.toInt
  high : r.T.toInt ≤ p.aHigh.toInt

/-- What the receiver makes of a byte, by its polarity (R109, R120). -/
def receivedByte (inv : Bool) (b : Byte) : Byte := if inv then b else ~~~b

theorem getLsbD_receivedByte (inv : Bool) (b : Byte) {i : Nat} (hi : i < 8) :
    (receivedByte inv b).getLsbD i = (b.getLsbD i == inv) := by
  cases inv <;> simp [receivedByte, hi]

section
variable {p : TxParams} {r : RxParams}

/-- The receiver's schedule passes its check (R95), unframed or with the transmitter's frame length. -/
theorem DirectLink.scheduleOk (h : DirectLink p r) (hfl : r.fl = 0 ∨ r.fl = p.N) :
    Machine.scheduleOk r = true := by
  obtain ⟨hS, -⟩ := (txConfigOk_iff p).1 h.sent_ok
  refine (scheduleOk_iff r).2 ⟨h.slots ▸ hS, hfl.imp_right fun hframed => ?_⟩
  rw [hframed, h.slots, h.preamble]
  exact h.fits

/-- Neither level lies in the dead zone (R110, R120). -/
theorem DirectLink.bitLevel_clear (h : DirectLink p r) (x : Bool) : inDeadZone r (bitLevel p x) = false := by
  rw [← Bool.not_eq_true, inDeadZone_iff]
  rintro ⟨hmode, hzone⟩
  obtain ⟨hlow, hhigh⟩ := h.clear.resolve_left hmode
  cases x with
  | false => exact hhigh hzone
  | true => exact hlow hzone

/-- The slicer reads a sent bit, inverted when `inv = 0` (R80, R109, R120). -/
theorem DirectLink.slice_bitLevel (h : DirectLink p r) (x : Bool) : slice r (bitLevel p x) = (x == r.inv) := by
  cases x with
  | false => exact (slice_of_le h.high).trans (by cases r.inv <;> rfl)
  | true => exact (slice_of_lt h.low).trans (by cases r.inv <;> rfl)

/-- The sample that is decided in data slot `i` is the level of bit `7 - i` (R80, R82, R120). -/
theorem DirectLink.dataSample (h : DirectLink p r) (b : Byte) {i : Nat} (hi : i < 8) :
    (sampleWord b p (r.off.toNat + (p.P.toNat + i) * p.S.toNat)).toInt = bitLevel p (b.getLsbD (7 - i)) := by
  have hslot : slotOf p (r.off.toNat + (p.P.toNat + i) * p.S.toNat) = p.P.toNat + i := by
    have := h.offset_in_slot
    refine slotOf_eq (Nat.le_add_left _ _) ?_
    rw [Nat.add_mul _ 1]
    omega
  obtain ⟨-, -, hword⟩ := frameValuesFitTheSampleWord b p (r.off.toNat + (p.P.toNat + i) * p.S.toNat)
  rw [hword, enc_data b p hi hslot, h.carrier i hi, one_mul]

/-- The sample of data slot `k % 8` is decided as the received byte's bit (R109, R120). -/
theorem DirectLink.decidedAs (h : DirectLink p r) {b : Byte} {k : Nat}
    (hc : c (k / 8) = receivedByte r.inv b) :
    DecidedAs c r k (sampleWord b p (r.off.toNat + (p.P.toNat + k % 8) * p.S.toNat)).toInt := by
  have hi : k % 8 < 8 := Nat.mod_lt _ (by decide)
  rw [DecidedAs, h.dataSample b hi, hc, getLsbD_receivedByte _ _ (by omega)]
  exact ⟨h.bitLevel_clear _, h.slice_bitLevel _⟩

theorem getElem_frameWords (b : Byte) (p : TxParams) {n : Nat} (hn : n < (frameWords b p).length) :
    (frameWords b p)[n] = sampleWord b p n := by
  simp [frameWords]

/-! ## Framed -/

/-- The words of frame `f` receive byte `f` of the stream (R104, R120). -/
theorem Received.frame (hlink : DirectLink p s.rx.p) (hfl : s.rx.p.fl = p.N) (h : Received q c s) {f : Nat}
    (hm : s.rx.m = f * p.N.toNat) {b : Byte} (hc : c f = receivedByte s.rx.p.inv b)
    (hroom : q.length + f < 8) :
    Received q c (Machine.pushAll (frameWords b p) s) ∧
      (Machine.pushAll (frameWords b p) s).rx.p = s.rx.p ∧
      (Machine.pushAll (frameWords b p) s).rx.m = (f + 1) * p.N.toNat := by
  obtain ⟨-, -, hN, -⟩ := (txConfigOk_iff p).1 hlink.sent_ok
  have hframed : s.rx.p.fl ≠ 0 := hfl ▸ hN
  have hlen := length_frameWords b p
  obtain ⟨hrec, hp, hm'⟩ := h.pushAll (ws := frameWords b p) fun n k hn hk => by
    have hfloor := frame_le_sched hframed k
    have hceil := sched_lt_next_frame (hlink.scheduleOk (.inr hfl)) hframed k
    have hsucc := Nat.add_mul f 1 p.N.toNat
    rw [hfl] at hfloor hceil
    have hframe : k / 8 = f :=
      (Nat.div_eq_of_lt_le hfloor hceil).symm.trans (Nat.div_eq_of_lt_le (by omega) (by omega))
    have hsample : n = s.rx.p.off.toNat + (p.P.toNat + k % 8) * p.S.toNat := by
      rw [sched_framed hframed, hfl, hlink.slots, hlink.preamble, hframe] at hk
      omega
    rw [getElem_frameWords, hsample, hframe]
    exact ⟨hlink.decidedAs (hframe ▸ hc), hroom⟩
  refine ⟨hrec, hp, ?_⟩
  rw [hm', hm, hlen, Nat.add_mul f 1, Nat.one_mul]

/-- Frames back to back, from frame `f` on, receive the stream's bytes one after another (R120). -/
theorem Received.frames (hlink : DirectLink p s.rx.p) (hfl : s.rx.p.fl = p.N) (h : Received q c s) {f : Nat}
    (hm : s.rx.m = f * p.N.toNat) {bs : List Byte}
    (hc : ∀ (j : Nat) (hj : j < bs.length), c (f + j) = receivedByte s.rx.p.inv bs[j])
    (hroom : q.length + (f + bs.length) ≤ 8) :
    Received q c (Machine.pushAll (bs.flatMap fun b => frameWords b p) s) ∧
      (Machine.pushAll (bs.flatMap fun b => frameWords b p) s).rx.p = s.rx.p ∧
      (Machine.pushAll (bs.flatMap fun b => frameWords b p) s).rx.m = (f + bs.length) * p.N.toNat := by
  induction bs generalizing s f with
  | nil => exact ⟨h, rfl, hm⟩
  | cons b bs ih =>
    rw [List.length_cons] at hroom ⊢
    obtain ⟨hrec, hp, hm'⟩ := h.frame hlink hfl hm (hc 0 (Nat.zero_lt_succ _)) (by omega)
    have hstep : f + 1 + bs.length = f + (bs.length + 1) := by omega
    rw [List.flatMap_cons, pushAll_append, ← hp, ← hstep]
    refine ih (hp ▸ hlink) (hp ▸ hfl) hrec hm' (fun j hj => ?_) (by omega)
    rw [hp, ← Nat.add_right_comm, Nat.add_assoc]
    exact hc (j + 1) (Nat.succ_lt_succ hj)

/-! ## Unframed -/

/-- The words of one frame up to its last data decision receive the stream's first byte (R104, R120). -/
theorem Received.unframed (hlink : DirectLink p s.rx.p) (hfl : s.rx.p.fl = 0) (h : Received q c s)
    (hm : s.rx.m = 0) {b : Byte} (hc : c 0 = receivedByte s.rx.p.inv b) (hroom : q.length < 8) :
    Received q c (Machine.pushAll ((frameWords b p).take (sched s.rx.p 7 + 1)) s) ∧
      (Machine.pushAll ((frameWords b p).take (sched s.rx.p 7 + 1)) s).rx.p = s.rx.p ∧
      (Machine.pushAll ((frameWords b p).take (sched s.rx.p 7 + 1)) s).rx.m = sched s.rx.p 7 + 1 := by
  have hindex : ∀ k, sched s.rx.p k = s.rx.p.off.toNat + (p.P.toNat + k) * p.S.toNat := fun k => by
    rw [sched_unframed hfl, hlink.slots, hlink.preamble]
  have hlen : ((frameWords b p).take (sched s.rx.p 7 + 1)).length = sched s.rx.p 7 + 1 := by
    rw [List.length_take, length_frameWords, hindex]
    exact Nat.min_eq_left hlink.fits
  obtain ⟨hrec, hp, hm'⟩ := h.pushAll (ws := (frameWords b p).take (sched s.rx.p 7 + 1)) fun n k hn hk => by
    rw [hm, Nat.zero_add] at hk
    have hle : k ≤ 7 := (sched_strictMono (hlink.scheduleOk (.inl hfl))).le_iff_le.1 (by omega)
    have hfirst : k / 8 = 0 := by omega
    have hsample : n = s.rx.p.off.toNat + (p.P.toNat + k % 8) * p.S.toNat := by
      rw [← hk, hindex, Nat.mod_eq_of_lt (by omega)]
    rw [List.getElem_take, getElem_frameWords, hsample, hfirst]
    exact ⟨hlink.decidedAs (hfirst ▸ hc), hroom⟩
  exact ⟨hrec, hp, by rw [hm', hm, hlen, Nat.zero_add]⟩

end

/-! ## The round trips -/

/-- The first `K` bytes of the stream stand in the FIFO when the samples reach past decision `8 * K - 1` and
not past decision `8 * K` (R105). -/
theorem Received.fifo_eq (h : Received q c s) {K : Nat} (hpast : ∀ j, j < 8 * K → sched s.rx.p j < s.rx.m)
    (hnext : s.rx.m ≤ sched s.rx.p (8 * K)) : s.rxq = q ++ (List.range K).map c := by
  rw [h.fifo, h.inv.decision_index.k_eq hpast hnext, Nat.mul_div_cancel_left _ (by decide)]

/-- Settles O38: the samples of all frames reach past 8 decisions per frame and no further. -/
theorem directLinkRoundTrip : Obligations.DirectLinkRoundTrip := by
  intro s p bs hok harmed hm hk hacc hroom hsl hskip hfl hoff hfits hclear hcar hlow hhigh
  have hlink : DirectLink p s.rx.p := ⟨hok, hsl, hskip, hoff, hfits, hclear, hcar, hlow, hhigh⟩
  have hsched := hlink.scheduleOk (.inr hfl)
  obtain ⟨-, -, hN, -⟩ := (txConfigOk_iff p).1 hok
  have hframed : s.rx.p.fl ≠ 0 := hfl ▸ hN
  have hstart := Received.start (fun j => receivedByte s.rx.p.inv (bs.getD j 0)) hm hk hacc hsched
  obtain ⟨hrec, hp, hm'⟩ := Received.frames (s := leaveArmed s) (f := 0) (bs := bs) hlink hfl hstart
    (hm.trans (Nat.zero_mul _).symm) (fun j hj => by simp [hj]) (by simpa using hroom)
  rw [Nat.zero_add] at hm'
  have hqueued := hrec.fifo_eq (K := bs.length) (fun j hj => ?past) ?next
  case past =>
    have hframe : (j / 8 + 1) * p.N.toNat ≤ bs.length * p.N.toNat := Nat.mul_le_mul_right _ (by omega)
    rw [hp, hm']
    exact (hfl ▸ sched_lt_next_frame hsched hframed j).trans_le hframe
  case next =>
    have hfloor := frame_le_sched hframed (8 * bs.length)
    rw [Nat.mul_div_cancel_left _ (by decide), hfl] at hfloor
    rw [hp, hm']
    exact hfloor
  rw [pushAll_rxq_of_armed harmed, hqueued]
  refine congrArg (s.rxq ++ ·) (List.ext_getElem (by simp) fun j hj _ => ?_)
  simp [receivedByte, List.getElem?_eq_getElem (by simpa using hj)]

/-- Settles O39: the samples up to decision 7 receive the byte, and those after it only add to the FIFO. -/
theorem directLinkRoundTripUnframed : Obligations.DirectLinkRoundTripUnframed := by
  intro s p b hok harmed hm hk hacc hroom hsl hskip hfl hoff hfits hclear hcar hlow hhigh
  have hlink : DirectLink p s.rx.p := ⟨hok, hsl, hskip, hoff, hfits, hclear, hcar, hlow, hhigh⟩
  have hsched := hlink.scheduleOk (.inl hfl)
  have hstart := Received.start (fun _ => receivedByte s.rx.p.inv b) hm hk hacc hsched
  obtain ⟨hrec, hp, hm'⟩ := Received.unframed (s := leaveArmed s) (b := b) hlink hfl hstart hm rfl hroom
  have hqueued := hrec.fifo_eq (K := 1) (fun j hj => ?past) ?next
  case past =>
    rw [hp, hm']
    exact Nat.lt_succ_of_le ((sched_strictMono hsched).monotone (Nat.le_of_lt_succ hj))
  case next =>
    rw [hp, hm']
    exact sched_lt_succ hsched 7
  obtain ⟨rest, hrest⟩ := rxq_prefix_pushAll ((frameWords b p).drop (sched s.rx.p 7 + 1))
    (pushAll ((frameWords b p).take (sched s.rx.p 7 + 1)) (leaveArmed s))
  have hwords := List.take_append_drop (sched s.rx.p 7 + 1) (frameWords b p)
  refine ⟨rest, ?_⟩
  rw [pushAll_rxq_of_armed harmed, ← hwords, pushAll_append, ← hrest]
  exact (congrArg (· ++ rest) hqueued).trans (List.append_assoc _ _ _)

end Sys2Proof.Machine
end

section
/-! SUPPORT. NOP and SOFT_RESET on the whole state (42_control.md). -/

namespace Sys2Proof.Machine

/-! ## A word written to CMD -/

/-- A word that decodes to a command performs it (R50). -/
theorem command_of_decode {v : Word} {i : Instr} (h : decode v = .command i) (s : State) :
    command v s = exec i s := by
  rw [command, h]

/-- A word that is refused raises BADCMD and does nothing else (R70). -/
theorem command_of_invalid {v : Word} {why : Invalid} (h : decode v = .invalid why) (s : State) :
    command v s = .next (raise .badCmd s) :=
  writeEffect_cmd_of_invalid h s

/-! ## NOP -/

@[simp] theorem exec_nop (s : State) : exec .nop s = .next s := rfl

/-- Settles O8: the word of NOP is its encoding, and the decoder refuses the near words by ARG and by MBZ. -/
theorem nopDoesNothing : Obligations.NopDoesNothing := by
  have hnop : decode 0x00000000#32 = .command .nop := decode_encode .nop
  have harg : decode 0x00000001#32 = .invalid .argNonzero := by decide
  have hmbz : decode 0x00000100#32 = .invalid .mbzNonzero := by decide
  exact ⟨hnop, fun s => ⟨exec_nop s, (command_of_decode hnop s).trans (exec_nop s),
    command_of_invalid harg s, command_of_invalid hmbz s⟩⟩

/-! ## SOFT_RESET -/

/-- SOFT_RESET is the hardware reset with the configuration kept (R122, R143). -/
theorem exec_softReset (s : State) : exec .softReset s = .next ((hardwareReset s).setRegs s.regs) := rfl

/-- INT_STAT reads 2 after SOFT_RESET, as after a hardware reset: TXRDY alone (R122). -/
theorem intStat_hardwareReset_setRegs (s : State) (c : Regs) :
    intStat ((hardwareReset s).setRegs c) = 0x00000002#32 := by
  rw [intStat_setRegs]
  exact (readView_setEnv .intStat State.reset s.env).trans intStat_reset

/-- With TXRDY alone in INT_STAT, the IRQ output is TXRDY's enable bit (R40). -/
theorem irq_of_txRdy_alone {s : State} (h : intStat s = 0x00000002#32) : irq s = s.regs.irqEn.getLsbD 1 := by
  have hbit : ∀ i < 10, (0x00000002#32).getLsbD i = decide (i = 1) := by decide
  rw [Bool.eq_iff_iff, irq, h, List.any_eq_true]
  constructor
  · rintro ⟨i, hi, henabled⟩
    rw [hbit i (List.mem_range.1 hi), Bool.and_eq_true, decide_eq_true_eq] at henabled
    obtain ⟨rfl, hen⟩ := henabled
    exact hen
  · exact fun hen => ⟨1, by decide, by rw [hen]; decide⟩

/-- Settles O9: the engines are those of the hardware reset, the configuration is the one before. -/
theorem softResetResetsEnginesKeepsConfiguration : Obligations.SoftResetResetsEnginesKeepsConfiguration := by
  refine ⟨decode_encode .softReset, fun s => ⟨(hardwareReset s).setRegs s.regs, exec_softReset s, rfl, rfl, rfl,
    rfl, rfl, rfl, rfl, rfl, rfl, Sticky.has_empty, rfl, rfl, rfl, ?intStat, ?irq⟩⟩
  case intStat => exact intStat_hardwareReset_setRegs s s.regs
  case irq => exact irq_of_txRdy_alone (intStat_hardwareReset_setRegs s s.regs)

end Sys2Proof.Machine
end

section
/-! SUPPORT. Every step answers a next state (R125), and which event can raise which cause (R126, R128). -/

namespace Sys2Proof.Machine

variable {s t : State} {es : List Event} {c d : Cause}

/-! ## Every step answers a next state -/

/-- Settles O7. -/
theorem idleMachineDoesNothing : Obligations.IdleMachineDoesNothing := fun _ he => step_nil he

/-- A transaction always gives a next state, and takes no event itself (R44, R45, R125). -/
theorem bus_next (tr : Transaction) (s : State) :
    ∃ t, bus tr s = .next t ∧ t.env.pending = s.env.pending := by
  cases tr with
  | read off size =>
    rcases htarget : target off size with _ | r
    · exact ⟨_, bus_read_err htarget s, rfl⟩
    · obtain ⟨rfl, rfl⟩ := target_eq_some.1 htarget
      exact ⟨_, bus_read r s, by rw [State.answer_env_pending, readEffect_env]⟩
  | write off size v =>
    rcases htarget : target off size with _ | r
    · exact ⟨_, bus_write_err v htarget s, rfl⟩
    · obtain ⟨rfl, rfl⟩ := target_eq_some.1 htarget
      obtain ⟨t, ht, henv⟩ := writeEffect_next r v s
      exact ⟨t.answer (.ok 0), by rw [bus_write, ht, andThen_next], by rw [State.answer_env_pending, henv]⟩

theorem pull_env_pending (s : State) : (pull s).env.pending = s.env.pending := by
  rcases hact : s.tx.active with _ | f
  · rw [pull_of_idle hact]
  · rw [pull_of_active hact]

/-- An event always gives a next state, and takes no other event (R55, R125). -/
theorem perform_next (e : Event) (s : State) :
    ∃ t, perform e s = .next t ∧ t.env.pending = s.env.pending := by
  cases e with
  | bus tr => exact bus_next tr s
  | pull => exact ⟨pull s, rfl, pull_env_pending s⟩
  | push w => exact ⟨push w s, rfl, by rw [push_env]⟩
  | reset => exact ⟨hardwareReset s, rfl, rfl⟩

/-- Settles O6: the step takes the first event, and performing it takes no other. -/
theorem stepNeverStopsAndTakesOneEvent : Obligations.StepNeverStopsAndTakesOneEvent := by
  intro s
  rcases he : s.env.pending with _ | ⟨e, es⟩
  · exact ⟨s, step_nil he, he⟩
  · rw [step_cons he]
    exact perform_next e (s.setPending es)

/-! ## The causes each operation raises -/

/-- The causes that one decided sample can raise in state `s` (R111, R116, R126). -/
inductive SampleRaises (s : State) : Cause → Prop where
  /-- A dead zone is selected (R110). -/
  | ambig (policy : s.rx.p.dzMode ≠ .off) : SampleRaises s .ambig
  /-- The FIFO is full (R116). -/
  | rxOvf (full : Config.rxqDepth ≤ s.rxq.length) : SampleRaises s .rxOvf

/-- The causes that command `i` can raise in state `s` (R126). -/
inductive CommandRaises (s : State) : Instr → Cause → Prop where
  /-- TX_SEND refused by its check (R84). -/
  | sendRefused (b : Byte) (bad : txConfigOk (latchTx s.regs) = false) : CommandRaises s (.txSend b) .cfgErr
  /-- TX_SEND dropped behind a pending frame (R86). -/
  | sendDropped (b : Byte) (ok : txConfigOk (latchTx s.regs) = true) (full : s.tx.pending ≠ none) :
      CommandRaises s (.txSend b) .txOvf
  /-- TX_SEND accepted with a frame that is too short (R87). -/
  | sendShort (b : Byte) (ok : txConfigOk (latchTx s.regs) = true) (free : s.tx.pending = none) :
      CommandRaises s (.txSend b) .trunc
  /-- RX_START refused by its check (R95). -/
  | startRefused : CommandRaises s .rxStart .cfgErr

/-- The causes that event `e` can raise in state `s`: the table of R126. -/
inductive Raises (s : State) : Event → Cause → Prop where
  /-- The last sample of a frame (R90). -/
  | txDone : Raises s .pull .txDone
  /-- The first sample of a session (R102). -/
  | rxStart (w : Word) (armed : s.rx.state = .armed) : Raises s (.push w) .rxStart
  /-- A sample that is decided (R108). -/
  | sample (w : Word) {c : Cause} (h : SampleRaises s c) : Raises s (.push w) c
  /-- A command's word written to CMD (R50). -/
  | command {v : Word} {i : Instr} {c : Cause} (hv : decode v = .command i) (h : CommandRaises s i c) :
      Raises s (commandWrite v) c
  /-- An illegal word written to CMD (R70). -/
  | badCmd {v : Word} {why : Invalid} (hv : decode v = .invalid why) : Raises s (commandWrite v) .badCmd

/-! ## A cause found set was set before, or is one of those that the operation raises -/

/-- The operation `raise d` sets the bit of `d` only (R125): what holds of `d` holds of every bit it sets. -/
theorem has_of_raise {P : Cause → Prop} (h : (raise d s).sticky.has c = true) (hd : P d) :
    s.sticky.has c = true ∨ P c := by
  have hcases : s.sticky.has c = true ∨ d = c := by simpa using h
  rcases hcases with hset | rfl
  · exact .inl hset
  · exact .inr hd

theorem has_of_pull (h : (pull s).sticky.has c = true) : s.sticky.has c = true ∨ Raises s .pull c := by
  by_cases hc : c = .txDone
  · subst hc
    exact .inr .txDone
  · obtain ⟨-, -, -, -, -, hsticky⟩ := pull_frame s
    exact .inl (hsticky c hc ▸ h)

theorem has_of_appendBit {x : Bool} (h : (appendBit x s).sticky.has c = true) :
    s.sticky.has c = true ∨ SampleRaises s c := by
  rcases appendBit_cases s x with ⟨_, he⟩ | ⟨_, _, he⟩ | ⟨_, full, he⟩ <;> rw [he] at h
  · exact .inl h
  · exact .inl h
  · exact has_of_raise h (.rxOvf full)

/-- AMBIG is raised only where a dead zone is selected (R110, R111). -/
theorem has_of_raiseAmbig {v : Int} {m : Nat} (hz : inDeadZone s.rx.p v = true)
    (h : (raiseAmbig m s).sticky.has c = true) : s.sticky.has c = true ∨ SampleRaises s c := by
  obtain ⟨policy, -, -⟩ := (inDeadZone_iff _ _).1 hz
  rw [raiseAmbig_sticky] at h
  exact has_of_raise h (.ambig policy)

theorem has_of_decideSlot {v : Int} {m : Nat} (h : (decideSlot v m s).sticky.has c = true) :
    s.sticky.has c = true ∨ SampleRaises s c := by
  rcases decideSlot_cases s v m with ⟨_, he⟩ | ⟨hz, _, he⟩ | ⟨x, hz, _, _, he⟩ <;> rw [he] at h
  · exact has_of_appendBit h
  · exact has_of_raiseAmbig hz h
  · rcases has_of_appendBit h with hset | hraises
    · exact has_of_raiseAmbig hz hset
    · cases hraises with
      | ambig policy => exact .inr (.ambig (by rwa [raiseAmbig_rx] at policy))
      | rxOvf full => exact .inr (.rxOvf (by rwa [raiseAmbig_rxq] at full))

theorem has_of_runSample {v : Int} (h : (runSample v s).sticky.has c = true) :
    s.sticky.has c = true ∨ SampleRaises s c := by
  rcases runSample_cases s v with ⟨_, he⟩ | ⟨_, he⟩ <;> rw [he] at h
  · exact has_of_decideSlot h
  · exact .inl h

/-- Leaving ARMED changes neither the latched parameters nor the FIFO (R102). -/
theorem SampleRaises.of_leaveArmed (h : SampleRaises (leaveArmed s) c) : SampleRaises s c := by
  cases h with
  | ambig policy => exact .ambig policy
  | rxOvf full => exact .rxOvf full

theorem has_of_push {w : Word} (h : (push w s).sticky.has c = true) :
    s.sticky.has c = true ∨ Raises s (.push w) c := by
  rcases push_cases s w with ⟨_, he⟩ | ⟨armed, he⟩ | ⟨_, he⟩ <;> rw [he] at h
  · exact .inl h
  · rcases has_of_runSample h with hstart | hraises
    · exact has_of_raise hstart (.rxStart w armed)
    · exact .inr (.sample w hraises.of_leaveArmed)
  · exact (has_of_runSample h).imp_right (.sample w)

theorem Executes.raises {i : Instr} (hx : Executes i s t) (h : t.sticky.has c = true) :
    s.sticky.has c = true ∨ CommandRaises s i c := by
  cases hx with
  | nop | sendWhole | abort | start | stop | clearFifo => exact .inl h
  | softReset => simp at h
  | sendRefused b _ bad => exact has_of_raise h (.sendRefused b bad)
  | sendDropped b _ ok full =>
    exact has_of_raise h (.sendDropped b ok (Option.isSome_iff_ne_none.1 full))
  | sendShort b _ ok free => exact has_of_raise h (.sendShort b ok free)
  | startRefused => exact has_of_raise h .startRefused

theorem Performs.raises {e : Event} (hp : Performs e s t) (h : t.sticky.has c = true) :
    s.sticky.has c = true ∨ Raises s e c := by
  cases hp with
  | pulled => exact has_of_pull h
  | pushed => exact has_of_push h
  | reset => exact absurd ((Sticky.has_empty c).symm.trans h) (by decide)
  | clear v =>
    have hkept : s.sticky.has c = true ∧ v.getLsbD c.code = false := by simpa using h
    exact .inl hkept.left
  | badCommand _ hv => exact has_of_raise h (.badCmd hv)
  | @execute i _ _ hx => exact (hx.raises h).imp_right (.command (decode_encode i))
  | readErr | writeErr | read | readPop | configure | ignore => exact .inl h

/-- A cause that was clear and is set after a step is one that the step's event raises (R126). -/
theorem raises_of_step {e : Event} (he : s.env.pending = e :: es) (hstep : step s = .next t)
    (hclear : s.sticky.has c = false) (hset : t.sticky.has c = true) : Raises (s.setPending es) e c :=
  ((performs_of_step he hstep).raises hset).resolve_left (by simp [hclear])

/-- Settles O51, row by row of R126's table. -/
theorem causesAreRaisedByTheirOperations : Obligations.CausesAreRaisedByTheirOperations := by
  intro s t e es c he hstep hclear hset
  cases raises_of_step he hstep hclear hset with
  | txDone => rfl
  | rxStart w armed => exact ⟨armed, w, rfl⟩
  | sample w hraises =>
    cases hraises with
    | ambig policy => exact ⟨policy, w, rfl⟩
    | rxOvf full => exact ⟨full, w, rfl⟩
  | @command v _ _ hv hraises =>
    cases hraises with
    | sendRefused b => exact ⟨v, rfl, .inl ⟨b, hv⟩⟩
    | sendDropped b _ full => exact ⟨full, v, b, rfl, hv⟩
    | sendShort b _ free => exact ⟨free, v, b, rfl, hv⟩
    | startRefused => exact ⟨v, rfl, .inr hv⟩
  | @badCmd v why hv => exact ⟨v, why, rfl, hv⟩

/-! ## At most one cause per CMD write -/

/-- TX_SEND's check, its drop and its acceptance exclude one another (R128). -/
theorem CommandRaises.unique {i : Instr} (hc : CommandRaises s i c) (hd : CommandRaises s i d) : c = d := by
  cases hc with
  | startRefused => cases hd; rfl
  | sendRefused _ bad =>
    cases hd with
    | sendRefused => rfl
    | sendDropped _ ok | sendShort _ ok => exact absurd (bad.symm.trans ok) (by decide)
  | sendDropped _ ok full =>
    cases hd with
    | sendRefused _ bad => exact absurd (bad.symm.trans ok) (by decide)
    | sendDropped => rfl
    | sendShort _ _ free => exact absurd free full
  | sendShort _ ok free =>
    cases hd with
    | sendRefused _ bad => exact absurd (bad.symm.trans ok) (by decide)
    | sendDropped _ _ full => exact absurd free full
    | sendShort => rfl

/-- What a CMD write can raise, by what its word decodes to (R50, R70). -/
theorem Raises.of_commandWrite {v : Word} (h : Raises s (commandWrite v) c) :
    (∃ i, decode v = .command i ∧ CommandRaises s i c) ∨ (∃ why, decode v = .invalid why) ∧ c = .badCmd := by
  cases h with
  | command hv hraises => exact .inl ⟨_, hv, hraises⟩
  | badCmd hv => exact .inr ⟨⟨_, hv⟩, rfl⟩

/-- Settles O53: the word decodes in one way, and a command raises one cause. -/
theorem commandWriteRaisesAtMostOneCause : Obligations.CommandWriteRaisesAtMostOneCause := by
  intro s t es v c d he hstep hc hc' hd hd'
  rcases (raises_of_step he hstep hc hc').of_commandWrite with ⟨i, hi, hraises⟩ | ⟨⟨why, hwhy⟩, rfl⟩ <;>
    rcases (raises_of_step he hstep hd hd').of_commandWrite with ⟨j, hj, hraises'⟩ | ⟨⟨why', hwhy'⟩, rfl⟩
  · cases hi.symm.trans hj
    exact hraises.unique hraises'
  · cases hi.symm.trans hwhy'
  · cases hwhy.symm.trans hj
  · rfl

end Sys2Proof.Machine
end

section
/-! SUPPORT. What the hardware reset gives, beside SOFT_RESET (R142, R143). -/

namespace Sys2Proof.Machine

/-! ## What reads after a hardware reset -/

/-- Every register reads its reset value after a hardware reset, whatever the state before (R141). -/
theorem readView_hardwareReset (r : Reg) (s : State) : readView r (hardwareReset s) = readView r State.reset :=
  readView_setEnv r State.reset s.env

/-- The configuration registers read 0 after a hardware reset (R142): the two registers that read another
value, ID and INT_STAT, are not RW. -/
theorem readView_hardwareReset_of_rw {r : Reg} (hrw : r.access = .rw) (s : State) :
    readView r (hardwareReset s) = 0 := by
  have hid : r ≠ .id := by rintro rfl; cases hrw
  have hint : r ≠ .intStat := by rintro rfl; cases hrw
  exact (readView_hardwareReset r s).trans (readView_reset hid hint)

theorem readView_status_hardwareReset (s : State) : readView .status (hardwareReset s) = 0x00000000#32 :=
  (readView_hardwareReset .status s).trans (readView_reset (by decide) (by decide))

/-- TXRDY alone is set after a hardware reset (R142). -/
theorem readView_intStat_hardwareReset (s : State) : readView .intStat (hardwareReset s) = 0x00000002#32 :=
  (readView_hardwareReset .intStat s).trans intStat_reset

/-- The IRQ output is low after a hardware reset: TXRDY is set, and its enable bit is 0 (R142). -/
theorem irq_hardwareReset (s : State) : irq (hardwareReset s) = false :=
  (irq_of_txRdy_alone (readView_intStat_hardwareReset s)).trans BitVec.getLsbD_zero

/-! ## What is refused after a hardware reset -/

/-- SLOT_LEN is 0, so TX_SEND's check fails (R84, R142). -/
theorem exec_txSend_hardwareReset (b : Byte) (s : State) :
    exec (.txSend b) (hardwareReset s) = .next (raise .cfgErr (hardwareReset s)) :=
  txSendRefusedOnBadConfiguration (hardwareReset s) b (.inl rfl)

/-- RX_SLOT_LEN is 0, so RX_START's check fails (R95, R142). -/
theorem exec_rxStart_hardwareReset (s : State) :
    exec .rxStart (hardwareReset s) = .next (raise .cfgErr (hardwareReset s)) :=
  rxStartRefusedOnBadConfiguration (hardwareReset s) (.inl rfl)

/-! ## The two statements -/

/-- Settles O10: SOFT_RESET is the hardware reset with the configuration put back, and the hardware reset
clears every configuration register. -/
theorem softAndHardResetDifferOnlyInConfiguration : Obligations.SoftAndHardResetDifferOnlyInConfiguration :=
  fun s => ⟨(hardwareReset s).setRegs s.regs, exec_softReset s, rfl,
    fun _ hrw => readView_hardwareReset_of_rw hrw s⟩

/-- Settles O11: the reset step gives `hardwareReset`, and each claim is one of its rules above. -/
theorem afterHardwareReset : Obligations.AfterHardwareReset := by
  intro s es he
  have hstep : step s = .next (hardwareReset (s.setPending es)) := by rw [step_cons he, perform_reset]
  exact ⟨hardwareReset (s.setPending es), hstep, readView_status_hardwareReset _,
    readView_intStat_hardwareReset _, readView_hardwareReset_of_rw rfl _, irq_hardwareReset _,
    fun _ hrw => readView_hardwareReset_of_rw hrw _, fun b => exec_txSend_hardwareReset b _,
    exec_rxStart_hardwareReset _⟩

end Sys2Proof.Machine
end
